-- ==== Sys2Proof/Word.lean ====
section
/-! DEFINITION. The two word types of the CORE (00_scope.md R6, R9): a byte is 8 bits, a word is 16 bits. -/

namespace Sys2Proof

/-- 8 bits: the data width (R6). -/
abbrev Byte := BitVec 8

/-- 16 bits: register pairs, index registers, SP, PC and addresses (R6). -/
abbrev Word := BitVec 16

end Sys2Proof
end

