-- ==== Sys2Proof/Config.lean ====
section
/-! DEFINITION. What the spec leaves open, as constants with no body: nothing in Lean can evaluate them, so a claim
holds for every value of them. The launch parameters of 00_scope.md R7 are fields of State, so that claims
quantify over them; the constants of this file are only the values `State.reset` gives those fields, and the
draws of each step. A function of Nat is applied to State's `tick`, which every step advances, so each draw is fresh. -/

namespace Sys2Proof

/-- The agents that take steps on their own (60_exceptions.md R392): the CPU with its driver and three workers.
The host's actions are in Machine.HostAction. -/
inductive Agent where
  | cpu | consoleInput | consoleOutput | disk
  deriving DecidableEq, Repr, Inhabited

/-- Which agent takes the next step where State's schedule does not say (60_exceptions.md R393; entry 2). -/
opaque Config.agent : Nat → Agent

/-- The next byte of a console input stream whose bytes State does not list, or none at its end
(44_console.md R300, R312; entry 8). -/
opaque Config.inputByte : Nat → Option Byte

/-- The answers of CON_FAIL that State does not list (00_scope.md R7, 44_console.md R312; entry 9). -/
opaque Config.conFail : Nat → Bool

/-- The answers of DISK_FAIL that State does not list (00_scope.md R7, 45_disk.md R353; entry 9). -/
opaque Config.diskFail : Nat → Bool

/-- The budgets of the runs that State does not list (00_scope.md R7, 60_exceptions.md R381; entry 5). -/
opaque Config.budget : Nat → Nat

/-- The transfer buffer after a failed Read: any value (45_disk.md R353; entry 10). -/
opaque Config.bufferDraw : Nat → Vector Byte 128

/-- The target sector after a failed Write: any value (45_disk.md R353; entry 10). -/
opaque Config.sectorDraw : Nat → Vector Byte 128

/-- The latched head after a failed Seek: any value (45_disk.md R353; entry 10). -/
opaque Config.latchHeadDraw : Nat → Byte

/-- The latched track after a failed Seek: any value (45_disk.md R353; entry 10). -/
opaque Config.latchTrackDraw : Nat → Byte

/-- Whether a Read or Write at an offset outside the image is reported as failed; such an offset needs a
failed Seek before it, and the spec states no result for it (entry 11). -/
opaque Config.outsideFails : Nat → Bool

/-- CON_IN_ZERO_ON_READ at launch (00_scope.md R7; entry 7). -/
opaque Config.conInZeroOnRead : Bool

/-- CON_EOF_ABORTS at launch (00_scope.md R7; entry 7). -/
opaque Config.conEofAborts : Bool

/-- GEOM.heads at launch (00_scope.md R7; entry 7). -/
opaque Config.heads : Byte

/-- GEOM.tracks at launch (00_scope.md R7; entry 7). -/
opaque Config.tracks : Byte

/-- GEOM.sectors at launch (00_scope.md R7; entry 7). -/
opaque Config.sectors : Byte

/-- BUF0 at launch (00_scope.md R7; entry 7). -/
opaque Config.buf0 : Vector Byte 128

/-- The bytes of IMAGE at launch, from offset 0 on; those past the image's size are not used and missing
ones are 0x00 (00_scope.md R7; entry 7). -/
opaque Config.imageBytes : List Byte

end Sys2Proof
end

