-- ==== Sys2Proof/Syntax.lean ====
section
/-! DEFINITION. The instructions of the admitted set (30_encoding.md R110), one constructor per row of
spec/opcode_table.json, with their operands as the assembler would name them. -/

namespace Sys2Proof

/-- The 8-bit register operands of the field r of 30_encoding.md R114; the field value 6 is the memory
operand (HL), whose forms are rows of their own. -/
inductive Reg8 where
  | b | c | d | e | h | l | a
  deriving DecidableEq, Repr

/-- The register pairs of the 2-bit field p (ss, dd) of 30_encoding.md R115. -/
inductive Pair where
  | bc | de | hl | sp
  deriving DecidableEq, Repr

/-- One constructor per row of spec/opcode_table.json, in the table's order.
`e` and `d` are displacement bytes, `n` an immediate or port byte, `nn` a 16-bit immediate, `k` the bit
number of BIT (30_encoding.md R113). -/
inductive Instr where
  | nop
  | halt
  | jrE (e : Byte)
  | jrNzE (e : Byte)
  | jrZE (e : Byte)
  | jpNn (nn : Word)
  | ldAN (n : Byte)
  | ldRN (r : Reg8) (n : Byte)
  | ldHlN (n : Byte)
  | ldRR (dst src : Reg8)
  | ldRHl (dst : Reg8)
  | ldHlR (src : Reg8)
  | ldDdNn (p : Pair) (nn : Word)
  | ldIxNn (nn : Word)
  | ldIyNn (nn : Word)
  | exx
  | exDeHl
  | exAfAf
  | addAR (r : Reg8)
  | addAHl
  | addAIx (d : Byte)
  | addAIy (d : Byte)
  | adcAR (r : Reg8)
  | adcAHl
  | adcAIx (d : Byte)
  | adcAIy (d : Byte)
  | andR (r : Reg8)
  | andHl
  | andIx (d : Byte)
  | andIy (d : Byte)
  | cpN (n : Byte)
  | addHlSs (p : Pair)
  | adcHlSs (p : Pair)
  | bitR (k : BitVec 3) (r : Reg8)
  | bitHl (k : BitVec 3)
  | inAN (n : Byte)
  | outNA (n : Byte)
  deriving DecidableEq, Repr

end Sys2Proof
end

