-- ==== Sys2Proof/WellFormed.lean ====
section
/-! DEFINITION. Which terms of Instr are instructions of the admitted set. The operand types already bound every
field; one check remains: `LD r,n` is for r in B, C, D, E, H, L only, since r = 7 is the row `LD A,n`
(41_load_exchange.md R181, opcode_table.json LD_r_n, exclude). -/

namespace Sys2Proof

/-- The instruction is a row of the table with operands that row admits (30_encoding.md R110). -/
def Instr.wellFormed : Instr → Bool
  | .ldRN r _ => r ≠ .a
  | .nop | .halt | .jrE _ | .jrNzE _ | .jrZE _ | .jpNn _ => true
  | .ldAN _ | .ldHlN _ | .ldRR _ _ | .ldRHl _ | .ldHlR _ => true
  | .ldDdNn _ _ | .ldIxNn _ | .ldIyNn _ | .exx | .exDeHl | .exAfAf => true
  | .addAR _ | .addAHl | .addAIx _ | .addAIy _ => true
  | .adcAR _ | .adcAHl | .adcAIx _ | .adcAIy _ => true
  | .andR _ | .andHl | .andIx _ | .andIy _ | .cpN _ => true
  | .addHlSs _ | .adcHlSs _ | .bitR _ _ | .bitHl _ => true
  | .inAN _ | .outNA _ => true

end Sys2Proof
end

