-- ==== Sys2Proof/Decode.lean ====
section
/-! DEFINITION. The decoder of 30_encoding.md R117 to R121, total on any bytes and rejecting by name, the encoder
written from the same tables, and the byte-order and bit-field helpers both use. -/

namespace Sys2Proof

/-! ### Bytes, words and fields -/

/-- `hi:lo` (00_scope.md R9). -/
def joinBytes (hi lo : Byte) : Word := hi ++ lo

/-- Bits 15 to 8 of a word. -/
def hiByte (w : Word) : Byte := w.extractLsb' 8 8

/-- Bits 7 to 0 of a word. -/
def loByte (w : Word) : Byte := w.extractLsb' 0 8

/-- `sext_16` (00_scope.md R10). -/
def sext16 (v : Byte) : Word := v.signExtend 16

/-- Field x, op[7:6] (30_encoding.md R112). -/
def opX (op : Byte) : BitVec 2 := op.extractLsb' 6 2

/-- Field y, op[5:3] (30_encoding.md R112). -/
def opY (op : Byte) : BitVec 3 := op.extractLsb' 3 3

/-- Field z, op[2:0] (30_encoding.md R112). -/
def opZ (op : Byte) : BitVec 3 := op.extractLsb' 0 3

/-- Field p, op[5:4] (30_encoding.md R112). -/
def opP (op : Byte) : BitVec 2 := op.extractLsb' 4 2

/-- Field q, op[3] (30_encoding.md R112). -/
def opQ (op : Byte) : BitVec 1 := op.extractLsb' 3 1

/-- The register of a 3-bit field (30_encoding.md R114); none for 6, the memory operand (HL). -/
def reg8OfField (r : BitVec 3) : Option Reg8 :=
  match r.toNat with
  | 0 => some .b
  | 1 => some .c
  | 2 => some .d
  | 3 => some .e
  | 4 => some .h
  | 5 => some .l
  | 6 => none
  | _ => some .a

/-- The 3-bit field of a register (30_encoding.md R114). -/
def fieldOfReg8 : Reg8 → BitVec 3
  | .b => 0
  | .c => 1
  | .d => 2
  | .e => 3
  | .h => 4
  | .l => 5
  | .a => 7

/-- The pair of a 2-bit field (30_encoding.md R115). -/
def pairOfField (p : BitVec 2) : Pair :=
  match p.toNat with
  | 0 => .bc
  | 1 => .de
  | 2 => .hl
  | _ => .sp

/-- The 2-bit field of a pair (30_encoding.md R115). -/
def fieldOfPair : Pair → BitVec 2
  | .bc => 0
  | .de => 1
  | .hl => 2
  | .sp => 3

/-! ### Decoding -/

/-- Why bytes are no instruction. `illegal` carries the bytes the decoder fetched before its verdict (R117,
R383: one or two); `truncated` says the list ended inside an instruction, which a fetch from memory never
causes, since the CPU always has a next byte (R35). -/
inductive DecodeError where
  | illegal (bytes : List Byte)
  | truncated
  deriving DecidableEq, Repr

/-- The instruction and the bytes after it, or why there is none. -/
abbrev DecodeResult := Except DecodeError (Instr × List Byte)

/-- An instruction that ends with one immediate byte, `fetch8` (00_scope.md R12). -/
def decodeImm8 (k : Byte → Instr) : List Byte → DecodeResult
  | n :: rest => .ok (k n, rest)
  | [] => .error .truncated

/-- An instruction that ends with a 16-bit immediate, low byte first, `fetch16` (00_scope.md R12, 20_memory.md R82). -/
def decodeImm16 (k : Word → Instr) : List Byte → DecodeResult
  | lo :: hi :: rest => .ok (k (joinBytes hi lo), rest)
  | _ => .error .truncated

/-- The page after 0xCB (30_encoding.md R119). -/
def decodeCB : List Byte → DecodeResult
  | op2 :: rest =>
    if opX op2 = 0b01 then
      match reg8OfField (opZ op2) with
      | some r => .ok (.bitR (opY op2) r, rest)
      | none => .ok (.bitHl (opY op2), rest)
    else .error (.illegal [0xCB, op2])
  | [] => .error .truncated

/-- The page after 0xED (30_encoding.md R120). -/
def decodeED : List Byte → DecodeResult
  | op2 :: rest =>
    if op2 = 0x4A ∨ op2 = 0x5A ∨ op2 = 0x6A ∨ op2 = 0x7A then .ok (.adcHlSs (pairOfField (opP op2)), rest)
    else .error (.illegal [0xED, op2])
  | [] => .error .truncated

/-- The page after 0xDD (30_encoding.md R121). -/
def decodeDD : List Byte → DecodeResult
  | op2 :: rest =>
    if op2 = 0x21 then decodeImm16 .ldIxNn rest
    else if op2 = 0x86 then decodeImm8 .addAIx rest
    else if op2 = 0x8E then decodeImm8 .adcAIx rest
    else if op2 = 0xA6 then decodeImm8 .andIx rest
    else .error (.illegal [0xDD, op2])
  | [] => .error .truncated

/-- The page after 0xFD (30_encoding.md R121). -/
def decodeFD : List Byte → DecodeResult
  | op2 :: rest =>
    if op2 = 0x21 then decodeImm16 .ldIyNn rest
    else if op2 = 0x86 then decodeImm8 .addAIy rest
    else if op2 = 0x8E then decodeImm8 .adcAIy rest
    else if op2 = 0xA6 then decodeImm8 .andIy rest
    else .error (.illegal [0xFD, op2])
  | [] => .error .truncated

/-- Unprefixed opcodes with x = 0 (30_encoding.md R118). -/
def decodeX0 (op : Byte) (rest : List Byte) : DecodeResult :=
  if op = 0x00 then .ok (.nop, rest)
  else if op = 0x08 then .ok (.exAfAf, rest)
  else if op = 0x18 then decodeImm8 .jrE rest
  else if op = 0x20 then decodeImm8 .jrNzE rest
  else if op = 0x28 then decodeImm8 .jrZE rest
  else if op = 0x36 then decodeImm8 .ldHlN rest
  else if op = 0x3E then decodeImm8 .ldAN rest
  else if opZ op = 6 then
    match reg8OfField (opY op) with
    | some r => decodeImm8 (.ldRN r) rest
    | none => .error (.illegal [op])
  else if opZ op = 1 then
    if opQ op = 0 then decodeImm16 (.ldDdNn (pairOfField (opP op))) rest
    else .ok (.addHlSs (pairOfField (opP op)), rest)
  else .error (.illegal [op])

/-- Unprefixed opcodes with x = 1: loads, and HALT in the place of LD (HL),(HL) (30_encoding.md R118). -/
def decodeX1 (op : Byte) (rest : List Byte) : DecodeResult :=
  match reg8OfField (opY op), reg8OfField (opZ op) with
  | some dst, some src => .ok (.ldRR dst src, rest)
  | some dst, none => .ok (.ldRHl dst, rest)
  | none, some src => .ok (.ldHlR src, rest)
  | none, none => .ok (.halt, rest)

/-- Unprefixed opcodes with x = 2: ADD A, ADC A and AND (30_encoding.md R118). -/
def decodeX2 (op : Byte) (rest : List Byte) : DecodeResult :=
  if opY op = 0 then
    match reg8OfField (opZ op) with
    | some r => .ok (.addAR r, rest)
    | none => .ok (.addAHl, rest)
  else if opY op = 1 then
    match reg8OfField (opZ op) with
    | some r => .ok (.adcAR r, rest)
    | none => .ok (.adcAHl, rest)
  else if opY op = 4 then
    match reg8OfField (opZ op) with
    | some r => .ok (.andR r, rest)
    | none => .ok (.andHl, rest)
  else .error (.illegal [op])

/-- Unprefixed opcodes with x = 3, the prefixes among them (30_encoding.md R118). -/
def decodeX3 (op : Byte) (rest : List Byte) : DecodeResult :=
  if op = 0xC3 then decodeImm16 .jpNn rest
  else if op = 0xCB then decodeCB rest
  else if op = 0xD3 then decodeImm8 .outNA rest
  else if op = 0xD9 then .ok (.exx, rest)
  else if op = 0xDB then decodeImm8 .inAN rest
  else if op = 0xDD then decodeDD rest
  else if op = 0xEB then .ok (.exDeHl, rest)
  else if op = 0xED then decodeED rest
  else if op = 0xFD then decodeFD rest
  else if op = 0xFE then decodeImm8 .cpN rest
  else .error (.illegal [op])

/-- The decoder of 30_encoding.md R117 on the bytes from an instruction's first byte on. -/
def decode : List Byte → DecodeResult
  | op :: rest =>
    match (opX op).toNat with
    | 0 => decodeX0 op rest
    | 1 => decodeX1 op rest
    | 2 => decodeX2 op rest
    | _ => decodeX3 op rest
  | [] => .error .truncated

/-! ### Encoding -/

/-- An opcode byte from its fields x, y, z (30_encoding.md R112). -/
def opcodeXYZ (x : BitVec 2) (y z : BitVec 3) : Byte := x ++ y ++ z

/-- An opcode byte from its fields x, p, q, z (30_encoding.md R112). -/
def opcodeXPQZ (x p : BitVec 2) (q : BitVec 1) (z : BitVec 3) : Byte := x ++ p ++ q ++ z

/-- The bytes of an instruction, first byte first, as opcode_table.json gives them. -/
def encode : Instr → List Byte
  | .nop => [0x00]
  | .halt => [0x76]
  | .jrE e => [0x18, e]
  | .jrNzE e => [0x20, e]
  | .jrZE e => [0x28, e]
  | .jpNn nn => [0xC3, loByte nn, hiByte nn]
  | .ldAN n => [0x3E, n]
  | .ldRN r n => [opcodeXYZ 0 (fieldOfReg8 r) 6, n]
  | .ldHlN n => [0x36, n]
  | .ldRR dst src => [opcodeXYZ 1 (fieldOfReg8 dst) (fieldOfReg8 src)]
  | .ldRHl dst => [opcodeXYZ 1 (fieldOfReg8 dst) 6]
  | .ldHlR src => [opcodeXYZ 1 6 (fieldOfReg8 src)]
  | .ldDdNn p nn => [opcodeXPQZ 0 (fieldOfPair p) 0 1, loByte nn, hiByte nn]
  | .ldIxNn nn => [0xDD, 0x21, loByte nn, hiByte nn]
  | .ldIyNn nn => [0xFD, 0x21, loByte nn, hiByte nn]
  | .exx => [0xD9]
  | .exDeHl => [0xEB]
  | .exAfAf => [0x08]
  | .addAR r => [opcodeXYZ 2 0 (fieldOfReg8 r)]
  | .addAHl => [0x86]
  | .addAIx d => [0xDD, 0x86, d]
  | .addAIy d => [0xFD, 0x86, d]
  | .adcAR r => [opcodeXYZ 2 1 (fieldOfReg8 r)]
  | .adcAHl => [0x8E]
  | .adcAIx d => [0xDD, 0x8E, d]
  | .adcAIy d => [0xFD, 0x8E, d]
  | .andR r => [opcodeXYZ 2 4 (fieldOfReg8 r)]
  | .andHl => [0xA6]
  | .andIx d => [0xDD, 0xA6, d]
  | .andIy d => [0xFD, 0xA6, d]
  | .cpN n => [0xFE, n]
  | .addHlSs p => [opcodeXPQZ 0 (fieldOfPair p) 1 1]
  | .adcHlSs p => [0xED, opcodeXPQZ 1 (fieldOfPair p) 1 2]
  | .bitR k r => [0xCB, opcodeXYZ 1 k (fieldOfReg8 r)]
  | .bitHl k => [0xCB, opcodeXYZ 1 k 6]
  | .inAN n => [0xDB, n]
  | .outNA n => [0xD3, n]

/-- How many bytes the instruction has (30_encoding.md R111, R124). -/
def instrLength : Instr → Nat
  | .nop | .halt | .ldRR _ _ | .ldRHl _ | .ldHlR _ | .exx | .exDeHl | .exAfAf => 1
  | .addAR _ | .addAHl | .adcAR _ | .adcAHl | .andR _ | .andHl | .addHlSs _ => 1
  | .jrE _ | .jrNzE _ | .jrZE _ | .ldAN _ | .ldRN _ _ | .ldHlN _ | .cpN _ | .inAN _ | .outNA _ => 2
  | .adcHlSs _ | .bitR _ _ | .bitHl _ => 2
  | .jpNn _ | .ldDdNn _ _ => 3
  | .addAIx _ | .addAIy _ | .adcAIx _ | .adcAIy _ | .andIx _ | .andIy _ => 3
  | .ldIxNn _ | .ldIyNn _ => 4

/-! ### The opcode table's numbering -/

/-- The first `k` bytes of a table word whose bytes above position `k` are dropped: spec/opcode_table.json reads a
row's match as ONE number with bit 0 its least significant bit, so the FIRST byte of an instruction of `k`
bytes is bits 8k-1 to 8k-8 (98_reader.md; entry 14). -/
def tableBytes : Nat → Nat → List Byte
  | 0, _ => []
  | k + 1, w => BitVec.ofNat 8 (w / 256 ^ k) :: tableBytes k w

/-- The bytes of a table word of `nbits` bits, with the bytes it may still need, all 0, up to the longest
instruction's four. -/
def tableWindow (nbits w : Nat) : List Byte := tableBytes (nbits / 8) w ++ List.replicate (4 - nbits / 8) 0

/-- The instruction the decoder reads from a table word of `nbits` bits; none where it refuses. -/
def decodeTableWord (nbits w : Nat) : Option Instr :=
  match decode (tableWindow nbits w) with
  | .ok (i, _) => some i
  | .error _ => none

end Sys2Proof
end

