-- ==== Sys2Proof/Machine/Memory.lean ====
section
/-! DEFINITION. A byte store as plain data, in one canonical form, and the operations on it: the 64 KiB memory
(20_memory.md R80) and the disk's backing store (45_disk.md R334) are both one. -/

namespace Sys2Proof.Machine

/-- A byte store: the listed (address, byte) pairs, addresses strictly rising, no pair listed that equals what an
unlisted address reads as. -/
abbrev Store := List Host.Cell

/-- What an address that is not listed reads as: 0x00 (DESIGN CHOICE, unsafe for State.reset only; entry 1). -/
def unlistedByte : Byte := 0x00

/-- The byte at an address. -/
def readCell : Store → Nat → Byte
  | [], _ => unlistedByte
  | (b, v) :: rest, a => if b = a then v else readCell rest a

/-- The store with one pair put in its place; no pair of that address is listed. -/
def insertCell : Store → Nat → Byte → Store
  | [], a, v => [(a, v)]
  | (b, w) :: rest, a, v => if a < b then (a, v) :: (b, w) :: rest else (b, w) :: insertCell rest a v

/-- The store after storing a byte: the old pair of that address goes, and the new one is listed unless an
unlisted address reads as it. -/
def writeCell (m : Store) (a : Nat) (v : Byte) : Store :=
  let rest := m.filter fun c => c.1 ≠ a
  if v = unlistedByte then rest else insertCell rest a v

/-- Store bytes one after another from an address on, without wrap (the backing store). -/
def writeCells : Store → Nat → List Byte → Store
  | m, _, [] => m
  | m, a, v :: vs => writeCells (writeCell m a v) (a + 1) vs

/-- The canonical form: addresses strictly rising from `lo` on, all below `bound`, no byte listed that an unlisted
address reads as. -/
def storeWf (bound : Nat) : Nat → Store → Bool
  | _, [] => true
  | lo, (a, v) :: rest => lo ≤ a && a < bound && v ≠ unlistedByte && storeWf bound (a + 1) rest

/-- `MemRead(addr, 1)` (00_scope.md R12); a word is already an address modulo 65536 (20_memory.md R81). -/
def memRead (m : Store) (a : Word) : Byte := readCell m a.toNat

/-- `MemWrite(addr, 1, v)` (00_scope.md R12). -/
def memWrite (m : Store) (a : Word) (v : Byte) : Store := writeCell m a.toNat v

/-- `install(bytes, address)` (20_memory.md R90): one byte after another, the address wrapping modulo 65536. -/
def memInstall : Store → Word → List Byte → Store
  | m, _, [] => m
  | m, a, v :: vs => memInstall (memWrite m a v) (a + 1) vs

/-- `len` bytes from an address on, the address wrapping modulo 65536 (10_state.md R35, 20_memory.md R81). -/
def memBytes (m : Store) (a : Word) : Nat → List Byte
  | 0 => []
  | len + 1 => memRead m a :: memBytes m (a + 1) len

/-- The canonical form of the 64 KiB memory. -/
def Memory.wf (m : Store) : Bool := storeWf 65536 0 m

/-- The 128 bytes from an offset of the backing store on (45_disk.md R334). -/
def sectorAt (image : Store) (off : Nat) : Vector Byte 128 := Vector.ofFn fun i => readCell image (off + i.val)

end Sys2Proof.Machine
end

