-- ==== Sys2Proof/Machine/State.lean ====
section
/-! DEFINITION. The state of the machine, all of it plain data: the CPU (10_state.md R30), the memory (R42), the
console (44_console.md R300), the disk (45_disk.md R330), the driver's bookkeeping (R44, 60_exceptions.md R381),
the launch parameters (00_scope.md R7) and who steps next (60_exceptions.md R393); why a step can stop; and the
state after reset. -/

namespace Sys2Proof.Machine

/-- The direction of a port access (43_port_io.md R273). -/
inductive Dir where
  | input | output
  deriving DecidableEq, Repr

/-- The fatal faults of 60_exceptions.md R383. An instruction or a worker that raises one records it in State;
the machine takes no step after that, and `step` answers the recorded fault (entry 4). -/
inductive Fault where
  /-- Raised by the CPU on bytes outside the admitted set, with the address of the first byte and the bytes
  fetched. Safe: the spec's own fault. -/
  | illegalOpcode (a0 : Word) (bytes : List Byte)
  /-- Raised by IN A,(n) and OUT (n),A for a (direction, port) pair that is not mapped. Safe: the spec's own fault. -/
  | unmappedPort (dir : Dir) (n : Byte)
  /-- Raised by OUT (10),A with A > 4. Safe: the spec's own fault. -/
  | badDiskCommand (v : Byte)
  /-- Raised by a console worker on a read or write failure, or at the end of input where CON_EOF_ABORTS. Safe: the
  spec's own fault. -/
  | consoleIOFailure
  /-- Raised by `construct` where the disk image's length does not match its geometry. Safe: the spec's own fault. -/
  | configurationError
  deriving DecidableEq, Repr

/-- Why an instruction has no meaning in this model. -/
inductive Refusal where
  /-- Raised by an arm of `exec` whose instruction has no meaning yet; no arm does. Safe: the machine stops. -/
  | notModelled (mnemonic : String)
  deriving DecidableEq, Repr

/-- Why `run` returned, with its payload (60_exceptions.md R380). -/
inductive StopReason where
  | halt
  | timesliceExpired
  | portIn (n : Byte)
  | portOut (n v : Byte)
  | illegal (a0 : Word) (bytes : List Byte)
  deriving DecidableEq, Repr

/-- One set of the 8-bit registers (10_state.md R30): the main set or the shadow set. -/
structure Bank where
  a : Byte
  f : Byte
  b : Byte
  c : Byte
  d : Byte
  e : Byte
  h : Byte
  l : Byte
  deriving DecidableEq, Repr

/-- What follows the listed bytes of a console input stream: nothing, or a part that the launch leaves open
(44_console.md R300, R312: INPUT is finite or infinite; entry 8). -/
inductive InputTail where
  | ends | free
  deriving DecidableEq, Repr

/-- Whether the console input worker still reads (44_console.md R300). -/
inductive InputState where
  | live | ended
  deriving DecidableEq, Repr

/-- The console (44_console.md R300). -/
structure Console where
  inAvail : Bool
  inByte : Byte
  outReady : Bool
  outPending : Option Byte
  input : List Byte
  inputTail : InputTail
  inputState : InputState
  output : List Byte
  deriving DecidableEq, Repr

/-- The disk's visible status (45_disk.md R331). -/
inductive DiskStatus where
  | ready | busy | seekError | readError | writeError | opError | badParam
  deriving DecidableEq, Repr

/-- A command dispatched to the disk worker (45_disk.md R330). -/
inductive DiskCommand where
  | seek (h t : Byte)
  | read (s : Byte)
  | write (s : Byte)
  deriving DecidableEq, Repr

/-- What the disk worker reports in the completion cell (45_disk.md R330). -/
inductive DiskResult where
  | ok | seekFail | readFail | writeFail
  deriving DecidableEq, Repr

/-- Whether the disk worker accepts commands (45_disk.md R330); `stopping` is Running with the stop command of
`halt()` queued behind a pending command (R348; entry 12). -/
inductive WorkerState where
  | running | stopping | stopped
  deriving DecidableEq, Repr

/-- The disk (45_disk.md R330). -/
structure Disk where
  head : Byte
  track : Byte
  sector : Byte
  addr : Word
  status : DiskStatus
  buffer : Vector Byte 128
  latchHead : Byte
  latchTrack : Byte
  pending : Option DiskCommand
  done : Option DiskResult
  workerState : WorkerState
  heads : Byte
  tracks : Byte
  sectors : Byte
  image : Store
  deriving DecidableEq, Repr

/-- What follows the listed budgets of the driver's runs: budgets that the launch leaves open, so that every finite
and every unending sequence is one of them, or budgets that are never used up (00_scope.md R7; entry 5). -/
inductive BudgetTail where
  | unbounded | free
  deriving DecidableEq, Repr

/-- The driver's bookkeeping: the recorded fault and the last stop reason (10_state.md R44), the run loop's count and
budget (60_exceptions.md R381), the budgets of the next runs (00_scope.md R7), and whether the driver has ended the
run at Halt (60_exceptions.md R398). A budget of none is one that is not used up (entry 5). -/
structure Driver where
  fault : Option Fault
  stopReason : Option StopReason
  ended : Bool
  count : Nat
  budget : Option Nat
  budgets : List Nat
  budgetTail : BudgetTail
  deriving DecidableEq, Repr

/-- The two launch parameters that are fixed Booleans (00_scope.md R7). -/
structure Launch where
  conInZeroOnRead : Bool
  conEofAborts : Bool
  deriving DecidableEq, Repr

/-- A failure oracle as plain data: the answers in order, then free answers or never a failure (00_scope.md R7;
entry 9). -/
structure Oracle where
  answers : List Bool
  free : Bool
  deriving DecidableEq, Repr

/-- What the host can do between steps (60_exceptions.md R397). -/
inductive HostAction where
  | install (bytes : List Byte) (address : Word)
  | reset
  | run (budget : Nat)
  | diskHalt
  | consoleHalt
  deriving DecidableEq, Repr

/-- Who takes a step (60_exceptions.md R392, R393). -/
inductive Move where
  | agent (who : Agent)
  | host (action : HostAction)
  deriving DecidableEq, Repr

/-- The machine's state. `schedule` and `tick` are the model's own: the moves already fixed, oldest first, and the
number of steps taken, the argument of every free value (entries 2 and 17). -/
structure State where
  main : Bank
  alt : Bank
  ix : Word
  iy : Word
  sp : Word
  pc : Word
  mem : Store
  console : Console
  disk : Disk
  driver : Driver
  launch : Launch
  conFail : Oracle
  diskFail : Oracle
  schedule : List Move
  tick : Nat
  deriving DecidableEq, Repr

/-- The 8-bit registers after `reset()` (10_state.md R45). -/
def Bank.zero : Bank := { a := 0, f := 0, b := 0, c := 0, d := 0, e := 0, h := 0, l := 0 }

/-- The console when the machine is constructed (44_console.md R302). -/
def Console.initial (input : List Byte) (inputTail : InputTail) : Console :=
  { inAvail := false, inByte := 0x00, outReady := true, outPending := none, input := input,
    inputTail := inputTail, inputState := .live, output := [] }

/-- The disk when the machine is constructed (45_disk.md R335). -/
def Disk.initial (heads tracks sectors : Byte) (image : Store) (buf0 : Vector Byte 128) : Disk :=
  { head := 0, track := 0, sector := 0, addr := 0, status := .ready, buffer := buf0, latchHead := 0,
    latchTrack := 0, pending := none, done := none, workerState := .running, heads := heads,
    tracks := tracks, sectors := sectors, image := image }

/-- The driver about to execute the first instruction of its first run (70_reset_and_hazards.md R422 step 5;
entries 5 and 19). -/
def Driver.initial (budget : Option Nat) (budgets : List Nat) (budgetTail : BudgetTail) : Driver :=
  { fault := none, stopReason := none, ended := false, count := 0, budget := budget, budgets := budgets,
    budgetTail := budgetTail }

/-- How many bytes the backing store has (45_disk.md R333). -/
def imageSize (heads tracks sectors : Byte) : Nat := heads.toNat * tracks.toNat * sectors.toNat * 128

/-- The machine right after reset (10_state.md R45, R46), constructed with the launch parameters that Config leaves
open, with no program installed (entries 1, 2, 5, 7, 8, 9, 13, 17, 19). -/
def State.reset : State :=
  { main := Bank.zero
    alt := Bank.zero
    ix := 0
    iy := 0
    sp := 0
    pc := 0
    mem := []
    console := Console.initial [] .free
    disk := Disk.initial Config.heads Config.tracks Config.sectors
      (writeCells [] 0 (Config.imageBytes.take (imageSize Config.heads Config.tracks Config.sectors))) Config.buf0
    driver := Driver.initial (some (Config.budget 0)) [] .free
    launch := { conInZeroOnRead := Config.conInZeroOnRead, conEofAborts := Config.conEofAborts }
    conFail := { answers := [], free := true }
    diskFail := { answers := [], free := true }
    schedule := []
    tick := 0 }

end Sys2Proof.Machine
end

