-- ==== Sys2Proof/Machine/Ops.lean ====
section
/-! DEFINITION. The named operations over registers, memory and the program counter, and the two ways control leaves
an instruction: a stop, which returns to the driver, and a fatal fault, which ends the machine (00_scope.md R13). -/

namespace Sys2Proof.Machine

/-! ### Registers -/

/-- `R8[r]` of one register set (00_scope.md R11). -/
def Bank.get (k : Bank) : Reg8 → Byte
  | .b => k.b
  | .c => k.c
  | .d => k.d
  | .e => k.e
  | .h => k.h
  | .l => k.l
  | .a => k.a

/-- `R8[r] <- v` in one register set (00_scope.md R11). -/
def Bank.set (k : Bank) (r : Reg8) (v : Byte) : Bank :=
  match r with
  | .b => { k with b := v }
  | .c => { k with c := v }
  | .d => { k with d := v }
  | .e => { k with e := v }
  | .h => { k with h := v }
  | .l => { k with l := v }
  | .a => { k with a := v }

/-- BC = B:C (10_state.md R31). -/
def Bank.bc (k : Bank) : Word := joinBytes k.b k.c

/-- DE = D:E (10_state.md R31). -/
def Bank.de (k : Bank) : Word := joinBytes k.d k.e

/-- HL = H:L (10_state.md R31). -/
def Bank.hl (k : Bank) : Word := joinBytes k.h k.l

/-- AF = A:F (10_state.md R31). -/
def Bank.af (k : Bank) : Word := joinBytes k.a k.f

/-- Write B and C (10_state.md R31). -/
def Bank.setBc (k : Bank) (w : Word) : Bank := { k with b := hiByte w, c := loByte w }

/-- Write D and E (10_state.md R31). -/
def Bank.setDe (k : Bank) (w : Word) : Bank := { k with d := hiByte w, e := loByte w }

/-- Write H and L (10_state.md R31). -/
def Bank.setHl (k : Bank) (w : Word) : Bank := { k with h := hiByte w, l := loByte w }

/-- Write A and F (10_state.md R31). -/
def Bank.setAf (k : Bank) (w : Word) : Bank := { k with a := hiByte w, f := loByte w }

/-- `R8[r]` (00_scope.md R11, 30_encoding.md R114). -/
def State.getR8 (s : State) (r : Reg8) : Byte := s.main.get r

/-- `R8[r] <- v`. -/
def State.setR8 (s : State) (r : Reg8) (v : Byte) : State := { s with main := s.main.set r v }

/-- `RP[p]` (00_scope.md R11, 30_encoding.md R115). -/
def State.getPair (s : State) : Pair → Word
  | .bc => s.main.bc
  | .de => s.main.de
  | .hl => s.main.hl
  | .sp => s.sp

/-- `RP[p] <- w`. -/
def State.setPair (s : State) (p : Pair) (w : Word) : State :=
  match p with
  | .bc => { s with main := s.main.setBc w }
  | .de => { s with main := s.main.setDe w }
  | .hl => { s with main := s.main.setHl w }
  | .sp => { s with sp := w }

/-- `F <- f`. -/
def State.setF (s : State) (f : Byte) : State := { s with main := { s.main with f := f } }

/-- Write A and F with a result and its flags. -/
def State.setAF (s : State) (r : Byte × Byte) : State := { s with main := { s.main with a := r.1, f := r.2 } }

/-- Write HL and F with a result and its flags. -/
def State.setHlF (s : State) (r : Word × Byte) : State :=
  { s with main := { s.main.setHl r.1 with f := r.2 } }

/-! ### Program counter and memory -/

/-- `PC <- target` (00_scope.md R13). -/
def State.setPc (s : State) (target : Word) : State := { s with pc := target }

/-- PC past the `len` bytes the instruction fetched, modulo 65536 (10_state.md R35, 40_control.md R150). -/
def State.advance (s : State) (len : Nat) : State := { s with pc := s.pc + BitVec.ofNat 16 len }

/-- `MemWrite(addr, 1, v)`. -/
def State.write8 (s : State) (a : Word) (v : Byte) : State := { s with mem := memWrite s.mem a v }

/-- The bytes from PC on, as many as the longest instruction has; reading them has no effect (20_memory.md R85;
entry 15). -/
def State.fetchWindow (s : State) : List Byte := memBytes s.mem s.pc 4

/-! ### Stops and faults -/

/-- `stop <Reason>`: the run returns this reason (00_scope.md R13, 10_state.md R44). -/
def State.stop (s : State) (r : StopReason) : State := { s with driver := { s.driver with stopReason := some r } }

/-- `raise <Fault>`: record a fatal fault, once and for all (60_exceptions.md R383). -/
def State.raise (s : State) (f : Fault) : State :=
  { s with driver := { s.driver with fault := s.driver.fault.or (some f) } }

/-- The budget of the next run: the first one listed, or what follows the list (00_scope.md R7, 60_exceptions.md R382;
entry 5). -/
def nextBudget (d : Driver) (tick : Nat) : Option Nat :=
  match d.budgets, d.budgetTail with
  | b :: _, _ => some b
  | [], .unbounded => none
  | [], .free => some (Config.budget tick)

/-- The driver resumes the CPU: it calls `run` with the next budget (60_exceptions.md R382, R388; entry 5). -/
def State.resume (s : State) : State :=
  { s with driver := { s.driver with
      count := 0, budget := nextBudget s.driver s.tick, budgets := s.driver.budgets.tail } }

/-- `run` returns Halt and the driver ends the run (60_exceptions.md R381, R382, R398; entry 6). -/
def State.endRun (s : State) : State :=
  { s with driver := { s.driver with stopReason := some .halt, ended := true } }

/-- The count of the run loop: every instruction counts, one that stops the CPU too (60_exceptions.md R381). -/
def State.countInstr (s : State) : State :=
  { s with driver := { s.driver with count := s.driver.count + 1 } }

/-- An Illegal encoding: nothing changes, PC stays at its first byte, and the driver records the fault
(30_encoding.md R123, 60_exceptions.md R382, R384). -/
def State.illegal (s : State) (bytes : List Byte) : State :=
  (s.stop (.illegal s.pc bytes)).raise (.illegalOpcode s.pc bytes)

/-- `run` returns TimesliceExpired and the driver calls it again (60_exceptions.md R381, R382). -/
def State.timeslice (s : State) : State := (s.stop .timesliceExpired).resume

/-- The answer of a failure oracle, given the free answer for a question it does not list, and the oracle after
it (00_scope.md R7; entry 9). -/
def askOracle (o : Oracle) (freeAnswer : Bool) : Bool × Oracle :=
  match o.answers with
  | b :: rest => (b, { o with answers := rest })
  | [] => (o.free && freeAnswer, o)

/-- The labels of the fatal faults (60_exceptions.md R383); no program can read them. -/
def faultCode : Fault → Nat
  | .illegalOpcode _ _ => 1
  | .unmappedPort _ _ => 2
  | .badDiskCommand _ => 3
  | .consoleIOFailure => 4
  | .configurationError => 5

end Sys2Proof.Machine
end

