-- ==== Sys2Proof/Machine/Flags.lean ====
section
/-! DEFINITION. The flags of F (10_state.md R36) and every flag computation the spec gives: R220, R221, R222, R238 and
R240 of 42_arith_logic.md, each computed on unbounded integers and narrowed at the end. -/

namespace Sys2Proof.Machine

/-! ### The bits of F (10_state.md R36) -/

/-- F.S, bit 7. -/
def flagS (f : Byte) : Bool := f.getLsbD 7

/-- F.Z, bit 6. -/
def flagZ (f : Byte) : Bool := f.getLsbD 6

/-- The unused bit 5. -/
def flagY (f : Byte) : Bool := f.getLsbD 5

/-- F.H, bit 4. -/
def flagH (f : Byte) : Bool := f.getLsbD 4

/-- The unused bit 3. -/
def flagX (f : Byte) : Bool := f.getLsbD 3

/-- F.PV, bit 2. -/
def flagPV (f : Byte) : Bool := f.getLsbD 2

/-- F.N, bit 1. -/
def flagN (f : Byte) : Bool := f.getLsbD 1

/-- F.C, bit 0. -/
def flagC (f : Byte) : Bool := f.getLsbD 0

/-- F from six flags, with bits 5 and 3 of the old F kept (10_state.md R36). -/
def packFlags (old : Byte) (s z h pv n c : Bool) : Byte :=
  BitVec.ofBool s ++ BitVec.ofBool z ++ BitVec.ofBool (flagY old) ++ BitVec.ofBool h ++
    BitVec.ofBool (flagX old) ++ BitVec.ofBool pv ++ BitVec.ofBool n ++ BitVec.ofBool c

/-- How many bits of a byte are set (00_scope.md R10). -/
def popcount (v : Byte) : Nat :=
  (v.getLsbD 0).toNat + (v.getLsbD 1).toNat + (v.getLsbD 2).toNat + (v.getLsbD 3).toNat +
    (v.getLsbD 4).toNat + (v.getLsbD 5).toNat + (v.getLsbD 6).toNat + (v.getLsbD 7).toNat

/-- An exact signed sum or difference does not fit into `w` bits: signed overflow. -/
def signedOverflow (w : Nat) (exact : Int) : Bool := exact < -(2 ^ (w - 1)) || exact > 2 ^ (w - 1) - 1

/-- `add8(a, b, cin)`: the result and F (42_arith_logic.md R220). -/
def add8 (f a b : Byte) (cin : Bool) : Byte × Byte :=
  let raw := a.toNat + b.toNat + cin.toNat
  let res := BitVec.ofNat 8 raw
  let h := a.toNat % 16 + b.toNat % 16 + cin.toNat ≥ 16
  let v := signedOverflow 8 (a.toInt + b.toInt + cin.toNat)
  (res, packFlags f (res.getLsbD 7) (res = 0) h v false (raw ≥ 256))

/-- `and8(a, b)`: the result and F (42_arith_logic.md R221). -/
def and8 (f a b : Byte) : Byte × Byte :=
  let res := a &&& b
  (res, packFlags f (res.getLsbD 7) (res = 0) true (popcount res % 2 = 0) false false)

/-- `sub8flags(a, b)`: F (42_arith_logic.md R222). -/
def sub8flags (f a b : Byte) : Byte :=
  let res := BitVec.ofInt 8 ((a.toNat : Int) - b.toNat)
  let h := a.toNat % 16 < b.toNat % 16
  let v := signedOverflow 8 (a.toInt - b.toInt)
  packFlags f (res.getLsbD 7) (res = 0) h v true (a.toNat < b.toNat)

/-- F after BIT b on a byte (42_arith_logic.md R238). -/
def bitFlags (f v : Byte) (k : BitVec 3) : Byte :=
  let t := v.getLsbD k.toNat
  packFlags f (k = 7 && t) (!t) true (!t) false (flagC f)

/-- `add16(a, b, cin, full)`: the result and F (42_arith_logic.md R240). -/
def add16 (f : Byte) (a b : Word) (cin full : Bool) : Word × Byte :=
  let raw := a.toNat + b.toNat + cin.toNat
  let res := BitVec.ofNat 16 raw
  let h := a.toNat % 4096 + b.toNat % 4096 + cin.toNat ≥ 4096
  let c := raw ≥ 65536
  let v := signedOverflow 16 (a.toInt + b.toInt + cin.toNat)
  (res,
    if full then packFlags f (res.getLsbD 15) (res = 0) h v false c
    else packFlags f (flagS f) (flagZ f) h (flagPV f) false c)

end Sys2Proof.Machine
end

