-- ==== Sys2Proof/Machine/Operands.lean ====
section
/-! DEFINITION. The operand forms of 20_memory.md R86 that read memory or compute an address. -/

namespace Sys2Proof.Machine

/-- The effective address of (HL) (20_memory.md R87). -/
def State.hlAddr (s : State) : Word := s.main.hl

/-- The effective address of (IX+d) or (IY+d) from its base register (20_memory.md R88). -/
def indexedAddr (base : Word) (d : Byte) : Word := base + sext16 d

/-- The operand (HL): `MemRead(HL, 1)`. -/
def State.readHl (s : State) : Byte := memRead s.mem s.hlAddr

/-- The operand (IX+d). -/
def State.readIx (s : State) (d : Byte) : Byte := memRead s.mem (indexedAddr s.ix d)

/-- The operand (IY+d). -/
def State.readIy (s : State) (d : Byte) : Byte := memRead s.mem (indexedAddr s.iy d)

/-- The target of a relative jump from the address after it (40_control.md R153). -/
def relTarget (pcAfter : Word) (e : Byte) : Word := pcAfter + sext16 e

end Sys2Proof.Machine
end

