-- ==== Sys2Proof/Machine/Control.lean ====
section
/-! DEFINITION. The control instructions (40_control.md). Every meaning takes the state at the start of the
instruction, PC at its first byte, and advances PC over the instruction's bytes first (00_scope.md R14; entry 16). -/

namespace Sys2Proof.Machine

/-- What a meaning answers. -/
abbrev Result := Host.Outcome State Fault Refusal

/-- The relative jump of JR, JR NZ and JR Z, taken or not (40_control.md R153). -/
def State.jumpRelative (s : State) (taken : Bool) (e : Byte) : State :=
  let after := s.advance 2
  if taken then after.setPc (relTarget after.pc e) else after

/-- NOP (40_control.md R151). -/
def execNop (s : State) : Result := .next (s.advance 1)

/-- HALT (40_control.md R152): PC past the byte, `run` returns Halt, the driver ends the run. -/
def execHalt (s : State) : Result := .next (s.advance 1).endRun

/-- JR e (40_control.md R154). -/
def execJrE (e : Byte) (s : State) : Result := .next (s.jumpRelative true e)

/-- JR NZ,e (40_control.md R155). -/
def execJrNzE (e : Byte) (s : State) : Result := .next (s.jumpRelative (!flagZ s.main.f) e)

/-- JR Z,e (40_control.md R156). -/
def execJrZE (e : Byte) (s : State) : Result := .next (s.jumpRelative (flagZ s.main.f) e)

/-- JP nn (40_control.md R157). -/
def execJpNn (nn : Word) (s : State) : Result := .next ((s.advance 3).setPc nn)

end Sys2Proof.Machine
end

