-- ==== Sys2Proof/Machine/Arith.lean ====
section
/-! DEFINITION. The arithmetic, logic, compare and bit-test instructions (42_arith_logic.md). -/

namespace Sys2Proof.Machine

/-- `A <- add8(A, v, 0)`, for every ADD A form (42_arith_logic.md R223 to R226). -/
def State.addA (s : State) (v : Byte) : State := s.setAF (add8 s.main.f s.main.a v false)

/-- `A <- add8(A, v, F.C)`, for every ADC A form (42_arith_logic.md R227 to R230). -/
def State.adcA (s : State) (v : Byte) : State := s.setAF (add8 s.main.f s.main.a v (flagC s.main.f))

/-- `A <- and8(A, v)`, for every AND form (42_arith_logic.md R231 to R234). -/
def State.andA (s : State) (v : Byte) : State := s.setAF (and8 s.main.f s.main.a v)

/-- The flags of BIT on a byte (42_arith_logic.md R238, R239). -/
def State.testBit (s : State) (k : BitVec 3) (v : Byte) : State := s.setF (bitFlags s.main.f v k)

/-- ADD A,r (42_arith_logic.md R223). -/
def execAddAR (r : Reg8) (s : State) : Result := .next ((s.advance 1).addA (s.getR8 r))

/-- ADD A,(HL) (42_arith_logic.md R224). -/
def execAddAHl (s : State) : Result := .next ((s.advance 1).addA s.readHl)

/-- ADD A,(IX+d) (42_arith_logic.md R225). -/
def execAddAIx (d : Byte) (s : State) : Result := .next ((s.advance 3).addA (s.readIx d))

/-- ADD A,(IY+d) (42_arith_logic.md R226). -/
def execAddAIy (d : Byte) (s : State) : Result := .next ((s.advance 3).addA (s.readIy d))

/-- ADC A,r (42_arith_logic.md R227). -/
def execAdcAR (r : Reg8) (s : State) : Result := .next ((s.advance 1).adcA (s.getR8 r))

/-- ADC A,(HL) (42_arith_logic.md R228). -/
def execAdcAHl (s : State) : Result := .next ((s.advance 1).adcA s.readHl)

/-- ADC A,(IX+d) (42_arith_logic.md R229). -/
def execAdcAIx (d : Byte) (s : State) : Result := .next ((s.advance 3).adcA (s.readIx d))

/-- ADC A,(IY+d) (42_arith_logic.md R230). -/
def execAdcAIy (d : Byte) (s : State) : Result := .next ((s.advance 3).adcA (s.readIy d))

/-- AND r (42_arith_logic.md R231). -/
def execAndR (r : Reg8) (s : State) : Result := .next ((s.advance 1).andA (s.getR8 r))

/-- AND (HL) (42_arith_logic.md R232). -/
def execAndHl (s : State) : Result := .next ((s.advance 1).andA s.readHl)

/-- AND (IX+d) (42_arith_logic.md R233). -/
def execAndIx (d : Byte) (s : State) : Result := .next ((s.advance 3).andA (s.readIx d))

/-- AND (IY+d) (42_arith_logic.md R234). -/
def execAndIy (d : Byte) (s : State) : Result := .next ((s.advance 3).andA (s.readIy d))

/-- CP n (42_arith_logic.md R235): only F is written. -/
def execCpN (n : Byte) (s : State) : Result := .next ((s.advance 2).setF (sub8flags s.main.f s.main.a n))

/-- ADD HL,ss (42_arith_logic.md R236). -/
def execAddHlSs (p : Pair) (s : State) : Result :=
  .next ((s.advance 1).setHlF (add16 s.main.f s.main.hl (s.getPair p) false false))

/-- ADC HL,ss (42_arith_logic.md R237). -/
def execAdcHlSs (p : Pair) (s : State) : Result :=
  .next ((s.advance 2).setHlF (add16 s.main.f s.main.hl (s.getPair p) (flagC s.main.f) true))

/-- BIT b,r (42_arith_logic.md R238). -/
def execBitR (k : BitVec 3) (r : Reg8) (s : State) : Result := .next ((s.advance 2).testBit k (s.getR8 r))

/-- BIT b,(HL) (42_arith_logic.md R239). -/
def execBitHl (k : BitVec 3) (s : State) : Result := .next ((s.advance 2).testBit k s.readHl)

end Sys2Proof.Machine
end

