-- ==== Sys2Proof/Machine/Load.lean ====
section
/-! DEFINITION. The load and exchange instructions (41_load_exchange.md). -/

namespace Sys2Proof.Machine

/-- LD A,n (41_load_exchange.md R180). -/
def execLdAN (n : Byte) (s : State) : Result := .next ((s.advance 2).setR8 .a n)

/-- LD r,n (41_load_exchange.md R181). -/
def execLdRN (r : Reg8) (n : Byte) (s : State) : Result := .next ((s.advance 2).setR8 r n)

/-- LD (HL),n (41_load_exchange.md R182). -/
def execLdHlN (n : Byte) (s : State) : Result := .next ((s.advance 2).write8 s.hlAddr n)

/-- LD r,r' (41_load_exchange.md R183). -/
def execLdRR (dst src : Reg8) (s : State) : Result := .next ((s.advance 1).setR8 dst (s.getR8 src))

/-- LD r,(HL) (41_load_exchange.md R184): the address is the old HL. -/
def execLdRHl (dst : Reg8) (s : State) : Result := .next ((s.advance 1).setR8 dst s.readHl)

/-- LD (HL),r (41_load_exchange.md R185). -/
def execLdHlR (src : Reg8) (s : State) : Result := .next ((s.advance 1).write8 s.hlAddr (s.getR8 src))

/-- LD dd,nn (41_load_exchange.md R186). -/
def execLdDdNn (p : Pair) (nn : Word) (s : State) : Result := .next ((s.advance 3).setPair p nn)

/-- LD IX,nn (41_load_exchange.md R187). -/
def execLdIxNn (nn : Word) (s : State) : Result := .next { s.advance 4 with ix := nn }

/-- LD IY,nn (41_load_exchange.md R188). -/
def execLdIyNn (nn : Word) (s : State) : Result := .next { s.advance 4 with iy := nn }

/-- EXX (41_load_exchange.md R189): BC, DE and HL change places with their shadow copies, all at once. -/
def execExx (s : State) : Result :=
  .next { s.advance 1 with
    main := ((s.main.setBc s.alt.bc).setDe s.alt.de).setHl s.alt.hl
    alt := ((s.alt.setBc s.main.bc).setDe s.main.de).setHl s.main.hl }

/-- EX DE,HL (41_load_exchange.md R190). -/
def execExDeHl (s : State) : Result :=
  .next { s.advance 1 with main := (s.main.setDe s.main.hl).setHl s.main.de }

/-- EX AF,AF' (41_load_exchange.md R191). -/
def execExAfAf (s : State) : Result :=
  .next { s.advance 1 with main := s.main.setAf s.alt.af, alt := s.alt.setAf s.main.af }

end Sys2Proof.Machine
end

