-- ==== Sys2Proof/Machine/ConsoleDevice.lean ====
section
/-! DEFINITION. The console device (44_console.md): the operations the port bus invokes and the steps of its two
workers. A worker step takes the tick of the step it is in, the argument of the free values it may draw. -/

namespace Sys2Proof.Machine

/-- `outReadyPoll()`, port 1 (44_console.md R303). -/
def consoleOutReadyPoll (c : Console) : Byte := if c.outReady then 0x00 else 0xFF

/-- `inAvailPoll()`, port 2 (44_console.md R304). -/
def consoleInAvailPoll (c : Console) : Byte := if c.inAvail then 0xFF else 0x00

/-- `outChar(v)`, port 0 (44_console.md R305): taken if ready, else dropped. -/
def consoleOutChar (c : Console) (v : Byte) : Console :=
  if c.outReady then { c with outReady := false, outPending := some v } else c

/-- `inChar()`, port 3 (44_console.md R306): the byte read, and the console after it. -/
def consoleInChar (zeroOnRead : Bool) (c : Console) : Byte × Console :=
  (c.inByte, { c with inAvail := false, inByte := if zeroOnRead then 0x00 else c.inByte })

/-- Whether the input worker can step (44_console.md R310, R312). -/
def consoleInputEnabled (c : Console) : Bool := c.inputState = .live

/-- Whether the output worker can step (44_console.md R311). -/
def consoleOutputEnabled (c : Console) : Bool := c.outPending.isSome

/-- The next byte of INPUT, or none at its end (44_console.md R300; entry 8). -/
def consoleNextInput (c : Console) (tick : Nat) : Option Byte :=
  match c.input with
  | b :: _ => some b
  | [] =>
    match c.inputTail with
    | .ends => none
    | .free => Config.inputByte tick

/-- A byte of INPUT arrives, over any unread one (44_console.md R310). -/
def consoleDeliver (c : Console) (b : Byte) : Console :=
  { c with input := c.input.tail, inByte := b, inAvail := true }

/-- The pending byte is written and the console is ready again (44_console.md R311). -/
def consoleFlush (c : Console) (v : Byte) : Console :=
  { c with output := c.output ++ [v], outPending := none, outReady := true }

/-- One step of the input worker (44_console.md R310, R312); where it is not enabled, nothing happens. -/
def inputWorkerStep (tick : Nat) (s : State) : State :=
  if consoleInputEnabled s.console then
    let ask := askOracle s.conFail (Config.conFail tick)
    let s := { s with conFail := ask.2 }
    if ask.1 then s.raise .consoleIOFailure
    else
      match consoleNextInput s.console tick with
      | some b => { s with console := consoleDeliver s.console b }
      | none =>
        if s.launch.conEofAborts then s.raise .consoleIOFailure
        else { s with console := { s.console with inputState := .ended } }
  else s

/-- One step of the output worker (44_console.md R311, R312); where it is not enabled, nothing happens. -/
def outputWorkerStep (tick : Nat) (s : State) : State :=
  match s.console.outPending with
  | none => s
  | some v =>
    let ask := askOracle s.conFail (Config.conFail tick)
    let s := { s with conFail := ask.2 }
    if ask.1 then s.raise .consoleIOFailure else { s with console := consoleFlush s.console v }

end Sys2Proof.Machine
end

