-- ==== Sys2Proof/Machine/DiskDevice.lean ====
section
/-! DEFINITION. The disk device (45_disk.md): the operations the port bus invokes, the worker's step and the backing
store. -/

namespace Sys2Proof.Machine

/-- The code of a status, as port 4 reads it (45_disk.md R331). -/
def diskStatusCode : DiskStatus → Byte
  | .ready => 0x00
  | .busy => 0x01
  | .seekError => 0x02
  | .readError => 0x03
  | .writeError => 0x04
  | .opError => 0x05
  | .badParam => 0x06

/-- A change that is dropped while the status is Busy (45_disk.md R344). -/
def diskUnlessBusy (d after : Disk) : Disk := if d.status = .busy then d else after

/-- `setHead(v)`, port 5 (45_disk.md R336). -/
def diskSetHead (d : Disk) (v : Byte) : Disk := diskUnlessBusy d { d with head := v }

/-- `setTrack(v)`, port 6 (45_disk.md R336). -/
def diskSetTrack (d : Disk) (v : Byte) : Disk := diskUnlessBusy d { d with track := v }

/-- `setSector(v)`, port 7 (45_disk.md R336). -/
def diskSetSector (d : Disk) (v : Byte) : Disk := diskUnlessBusy d { d with sector := v }

/-- `setAddrLow(v)`, port 8 (45_disk.md R337). -/
def diskSetAddrLow (d : Disk) (v : Byte) : Disk := diskUnlessBusy d { d with addr := joinBytes (hiByte d.addr) v }

/-- `setAddrHigh(v)`, port 9 (45_disk.md R337). -/
def diskSetAddrHigh (d : Disk) (v : Byte) : Disk := diskUnlessBusy d { d with addr := joinBytes v (loByte d.addr) }

/-- Geometry validation of the control registers as they stand (45_disk.md R339). -/
def diskValid (d : Disk) : Bool :=
  d.head.toNat < d.heads.toNat && d.track.toNat < d.tracks.toNat && d.sector.toNat < d.sectors.toNat

/-- The common shape of seek, read and write: dropped while Busy, BadParam where the registers are invalid, else
dispatched to the worker (45_disk.md R340). -/
def diskDispatch (d : Disk) (c : DiskCommand) : Disk :=
  if d.status = .busy then d
  else if diskValid d then { d with status := .busy, pending := some c }
  else { d with status := .badParam }

/-- `seek()`, command 2 (45_disk.md R340). -/
def diskSeek (d : Disk) : Disk := diskDispatch d (.seek d.head d.track)

/-- `readSector()`, command 0 (45_disk.md R341). -/
def diskReadSector (d : Disk) : Disk := diskDispatch d (.read d.sector)

/-- `writeSector()`, command 1 (45_disk.md R342). -/
def diskWriteSector (d : Disk) : Disk := diskDispatch d (.write d.sector)

/-- `copyFromAddr(memory)`, command 3 (45_disk.md R354). -/
def diskCopyFromAddr (d : Disk) (m : Store) : Disk :=
  diskUnlessBusy d { d with buffer := Vector.ofFn fun i => memRead m (d.addr + BitVec.ofNat 16 i.val) }

/-- `copyToAddr(memory)`, command 4 (45_disk.md R355): the memory after it. -/
def diskCopyToAddr (d : Disk) (m : Store) : Store :=
  if d.status = .busy then m else memInstall m d.addr d.buffer.toList

/-- `command(v, memory)`, port 10 (45_disk.md R338, R343): the disk and the memory after it. -/
def diskCommand (d : Disk) (v : Byte) (m : Store) : Except Fault (Disk × Store) :=
  match v.toNat with
  | 0 => .ok (diskReadSector d, m)
  | 1 => .ok (diskWriteSector d, m)
  | 2 => .ok (diskSeek d, m)
  | 3 => .ok (diskCopyFromAddr d m, m)
  | 4 => .ok (d, diskCopyToAddr d m)
  | _ => .error (.badDiskCommand v)

/-- The status a worker's result shows as (45_disk.md R346). -/
def diskStatusOfResult : DiskResult → DiskStatus
  | .ok => .ready
  | .seekFail => .seekError
  | .readFail => .readError
  | .writeFail => .writeError

/-- `statusPoll()`, port 4 (45_disk.md R346): the code read, and the disk after it. -/
def diskStatusPoll (d : Disk) : Byte × Disk :=
  match d.status, d.done with
  | .busy, some r =>
    let status := diskStatusOfResult r
    (diskStatusCode status, { d with status := status, done := none })
  | status, _ => (diskStatusCode status, d)

/-- Disk `halt()` (45_disk.md R348; entry 12): the worker stops once a command already pending is done. -/
def diskHalt (d : Disk) : Disk :=
  match d.pending, d.workerState with
  | none, _ => { d with workerState := .stopped }
  | some _, .running => { d with workerState := .stopping }
  | some _, _ => d

/-! ### The worker and the backing store -/

/-- The offset of a sector of the latched head and track (45_disk.md R334, R351). -/
def diskOffset (d : Disk) (s : Byte) : Nat :=
  ((d.latchHead.toNat * d.tracks.toNat + d.latchTrack.toNat) * d.sectors.toNat + s.toNat) * 128

/-- Whether 128 bytes from an offset on lie in the data region (45_disk.md R333, R334). -/
def diskInside (d : Disk) (off : Nat) : Bool := off + 128 ≤ imageSize d.heads d.tracks d.sectors

/-- The image with a sector stored at an offset; an offset outside the data region stores nothing (entry 11). -/
def diskStoreSector (d : Disk) (off : Nat) (bytes : Vector Byte 128) : Store :=
  if diskInside d off then writeCells d.image off bytes.toList else d.image

/-- `Seek(h, t)` (45_disk.md R350, R353). -/
def diskDoSeek (d : Disk) (fails : Bool) (tick : Nat) (h t : Byte) : Disk × DiskResult :=
  if fails then
    ({ d with latchHead := Config.latchHeadDraw tick, latchTrack := Config.latchTrackDraw tick }, .seekFail)
  else ({ d with latchHead := h, latchTrack := t }, .ok)

/-- `Read(s)` (45_disk.md R351, R353; entry 11 outside the data region). -/
def diskDoRead (d : Disk) (fails : Bool) (tick : Nat) (s : Byte) : Disk × DiskResult :=
  let off := diskOffset d s
  if fails then ({ d with buffer := Config.bufferDraw tick }, .readFail)
  else if diskInside d off then ({ d with buffer := sectorAt d.image off }, .ok)
  else ({ d with buffer := Config.bufferDraw tick }, if Config.outsideFails tick then .readFail else .ok)

/-- `Write(s)` (45_disk.md R352, R353; entry 11 outside the data region). -/
def diskDoWrite (d : Disk) (fails : Bool) (tick : Nat) (s : Byte) : Disk × DiskResult :=
  let off := diskOffset d s
  if fails then ({ d with image := diskStoreSector d off (Config.sectorDraw tick) }, .writeFail)
  else if diskInside d off then ({ d with image := diskStoreSector d off d.buffer }, .ok)
  else (d, if Config.outsideFails tick then .writeFail else .ok)

/-- The worker performs a command (45_disk.md R350 to R353). -/
def diskPerform (d : Disk) (fails : Bool) (tick : Nat) : DiskCommand → Disk × DiskResult
  | .seek h t => diskDoSeek d fails tick h t
  | .read s => diskDoRead d fails tick s
  | .write s => diskDoWrite d fails tick s

/-- The worker reports a result; a stop command queued behind the command takes hold (45_disk.md R348, R349). -/
def diskReport (r : Disk × DiskResult) : Disk :=
  { r.1 with
    done := some r.2
    pending := none
    workerState := if r.1.workerState = .stopping then .stopped else r.1.workerState }

/-- Whether the worker can step (45_disk.md R349). -/
def diskWorkerEnabled (d : Disk) : Bool := d.pending.isSome && d.workerState ≠ .stopped

/-- One step of the disk worker (45_disk.md R349); where it is not enabled, nothing happens. -/
def diskWorkerStep (tick : Nat) (s : State) : State :=
  match s.disk.pending with
  | none => s
  | some c =>
    if s.disk.workerState = .stopped then s
    else
      let ask := askOracle s.diskFail (Config.diskFail tick)
      { s with disk := diskReport (diskPerform s.disk ask.1 tick c), diskFail := ask.2 }

end Sys2Proof.Machine
end

