-- ==== Sys2Proof/Machine/PortIO.lean ====
section
/-! DEFINITION. The port bus and the two port instructions (43_port_io.md). -/

namespace Sys2Proof.Machine

/-- `PortIn(n)` (43_port_io.md R275): the byte read and the state after it, or the fault. -/
def portIn (n : Byte) (s : State) : Except Fault (Byte × State) :=
  match n.toNat with
  | 1 => .ok (consoleOutReadyPoll s.console, s)
  | 2 => .ok (consoleInAvailPoll s.console, s)
  | 3 =>
    let r := consoleInChar s.launch.conInZeroOnRead s.console
    .ok (r.1, { s with console := r.2 })
  | 4 =>
    let r := diskStatusPoll s.disk
    .ok (r.1, { s with disk := r.2 })
  | 11 => .ok (s.disk.heads, s)
  | 12 => .ok (s.disk.tracks, s)
  | 13 => .ok (s.disk.sectors, s)
  | _ => .error (.unmappedPort .input n)

/-- `PortOut(n, v)` (43_port_io.md R276): the state after it, or the fault. -/
def portOut (n v : Byte) (s : State) : Except Fault State :=
  match n.toNat with
  | 0 => .ok { s with console := consoleOutChar s.console v }
  | 5 => .ok { s with disk := diskSetHead s.disk v }
  | 6 => .ok { s with disk := diskSetTrack s.disk v }
  | 7 => .ok { s with disk := diskSetSector s.disk v }
  | 8 => .ok { s with disk := diskSetAddrLow s.disk v }
  | 9 => .ok { s with disk := diskSetAddrHigh s.disk v }
  | 10 => (diskCommand s.disk v s.mem).map fun r => { s with disk := r.1, mem := r.2 }
  | _ => .error (.unmappedPort .output n)

/-- IN A,(n) (43_port_io.md R270): `run` returns PortIn, the driver performs the port operation, writes A and resumes
the CPU, all in one step; where the operation faults, A is not written (R274). -/
def execInAN (n : Byte) (s : State) : Result :=
  let stopped := (s.advance 2).stop (.portIn n)
  match portIn n stopped with
  | .ok r => .next (r.2.setR8 .a r.1).resume
  | .error f => .next (stopped.raise f)

/-- OUT (n),A (43_port_io.md R271): `run` returns PortOut, the driver performs the port operation and resumes the CPU,
all in one step. -/
def execOutNA (n : Byte) (s : State) : Result :=
  let stopped := (s.advance 2).stop (.portOut n s.main.a)
  match portOut n s.main.a stopped with
  | .ok t => .next t.resume
  | .error f => .next (stopped.raise f)

end Sys2Proof.Machine
end

