-- ==== Sys2Proof/Machine/Dispatch.lean ====
section
/-! DEFINITION. The dispatch: one arm per constructor of Instr, each one call of that instruction's meaning. -/

namespace Sys2Proof.Machine

def exec (i : Instr) (s : State) : Host.Outcome State Fault Refusal :=
  match i with
  | .nop => Sys2Proof.Machine.execNop s
  | .halt => Sys2Proof.Machine.execHalt s
  | .jrE e => Sys2Proof.Machine.execJrE e s
  | .jrNzE e => Sys2Proof.Machine.execJrNzE e s
  | .jrZE e => Sys2Proof.Machine.execJrZE e s
  | .jpNn nn => Sys2Proof.Machine.execJpNn nn s
  | .ldAN n => Sys2Proof.Machine.execLdAN n s
  | .ldRN r n => Sys2Proof.Machine.execLdRN r n s
  | .ldHlN n => Sys2Proof.Machine.execLdHlN n s
  | .ldRR dst src => Sys2Proof.Machine.execLdRR dst src s
  | .ldRHl dst => Sys2Proof.Machine.execLdRHl dst s
  | .ldHlR src => Sys2Proof.Machine.execLdHlR src s
  | .ldDdNn p nn => Sys2Proof.Machine.execLdDdNn p nn s
  | .ldIxNn nn => Sys2Proof.Machine.execLdIxNn nn s
  | .ldIyNn nn => Sys2Proof.Machine.execLdIyNn nn s
  | .exx => Sys2Proof.Machine.execExx s
  | .exDeHl => Sys2Proof.Machine.execExDeHl s
  | .exAfAf => Sys2Proof.Machine.execExAfAf s
  | .addAR r => Sys2Proof.Machine.execAddAR r s
  | .addAHl => Sys2Proof.Machine.execAddAHl s
  | .addAIx d => Sys2Proof.Machine.execAddAIx d s
  | .addAIy d => Sys2Proof.Machine.execAddAIy d s
  | .adcAR r => Sys2Proof.Machine.execAdcAR r s
  | .adcAHl => Sys2Proof.Machine.execAdcAHl s
  | .adcAIx d => Sys2Proof.Machine.execAdcAIx d s
  | .adcAIy d => Sys2Proof.Machine.execAdcAIy d s
  | .andR r => Sys2Proof.Machine.execAndR r s
  | .andHl => Sys2Proof.Machine.execAndHl s
  | .andIx d => Sys2Proof.Machine.execAndIx d s
  | .andIy d => Sys2Proof.Machine.execAndIy d s
  | .cpN n => Sys2Proof.Machine.execCpN n s
  | .addHlSs p => Sys2Proof.Machine.execAddHlSs p s
  | .adcHlSs p => Sys2Proof.Machine.execAdcHlSs p s
  | .bitR k r => Sys2Proof.Machine.execBitR k r s
  | .bitHl k => Sys2Proof.Machine.execBitHl k s
  | .inAN n => Sys2Proof.Machine.execInAN n s
  | .outNA n => Sys2Proof.Machine.execOutNA n s

end Sys2Proof.Machine
end

