-- ==== Sys2Proof/Machine/HostOps.lean ====
section
/-! DEFINITION. What the host does to the machine (60_exceptions.md R397): construct it, install bytes, reset, call
`run` again, halt the devices; and the boot order (70_reset_and_hazards.md R422). -/

namespace Sys2Proof.Machine

/-- The launch parameters of 00_scope.md R7. -/
structure LaunchParams where
  imageFile : List Byte
  rom : List Byte
  mem0 : Store
  buf0 : Vector Byte 128
  input : List Byte
  inputTail : InputTail
  conInZeroOnRead : Bool
  conEofAborts : Bool
  conFail : Oracle
  diskFail : Oracle
  budget : Option Nat
  budgets : List Nat
  budgetTail : BudgetTail
  schedule : List Move
  deriving DecidableEq, Repr

/-- `ROM_BASE` (00_scope.md R8). -/
def romBase : Word := 0x0000

/-- `reset()` (10_state.md R45, 70_reset_and_hazards.md R420): every CPU register becomes 0, nothing else changes. -/
def State.resetCpu (s : State) : State :=
  { s with main := Bank.zero, alt := Bank.zero, ix := 0, iy := 0, sp := 0, pc := 0 }

/-- The data region's bytes and the geometry of a disk image file, or none where the length of the data does not
match the geometry (45_disk.md R333). -/
def openImage (file : List Byte) : Option (List Byte × Byte × Byte × Byte) :=
  match file.drop (file.length - 3) with
  | [heads, tracks, sectors] =>
    let data := file.take (file.length - 3)
    if data.length = imageSize heads tracks sectors then some (data, heads, tracks, sectors) else none
  | _ => none

/-- Construct the machine (70_reset_and_hazards.md R422 steps 1 and 2): the disk image is opened, the devices take
their initial state, memory holds MEM0. The registers are zero (10_state.md R45). -/
def construct (p : LaunchParams) : Host.Outcome State Fault Refusal :=
  match openImage p.imageFile with
  | none => .fault .configurationError
  | some (data, heads, tracks, sectors) =>
    .next
      { main := Bank.zero, alt := Bank.zero, ix := 0, iy := 0, sp := 0, pc := 0
        mem := p.mem0
        console := Console.initial p.input p.inputTail
        disk := Disk.initial heads tracks sectors (writeCells [] 0 data) p.buf0
        driver := Driver.initial p.budget p.budgets p.budgetTail
        launch := { conInZeroOnRead := p.conInZeroOnRead, conEofAborts := p.conEofAborts }
        conFail := p.conFail
        diskFail := p.diskFail
        schedule := p.schedule
        tick := 0 }

/-- The boot order (70_reset_and_hazards.md R421, R422): construct, install the ROM, reset. -/
def boot (p : LaunchParams) : Host.Outcome State Fault Refusal :=
  match construct p with
  | .next s => .next { s with mem := memInstall s.mem romBase p.rom }.resetCpu
  | .fault f => .fault f
  | .refused r => .refused r

/-- One action of the host (60_exceptions.md R397). `run` takes hold where the driver has ended the run
(R388; entry 6); the console's `halt()` has no effect (44_console.md R307). -/
def hostStep (s : State) : HostAction → State
  | .install bytes address => { s with mem := memInstall s.mem address bytes }
  | .reset => s.resetCpu
  | .run budget =>
    if s.driver.ended then
      { s with driver := { s.driver with ended := false, count := 0, budget := some budget } }
    else s
  | .diskHalt => { s with disk := diskHalt s.disk }
  | .consoleHalt => s

end Sys2Proof.Machine
end

