-- ==== Sys2Proof/Machine/Agents.lean ====
section
/-! DEFINITION. Who takes a step and what that step is (60_exceptions.md R381, R382, R392, R393). -/

namespace Sys2Proof.Machine

/-- The next mover: the oldest move of the schedule, or a free choice among the agents where the schedule is used up
(60_exceptions.md R393; entry 2). -/
def nextMove (s : State) : Move :=
  match s.schedule with
  | m :: _ => m
  | [] => .agent (Config.agent s.tick)

/-- The state once its next mover is chosen: that move is taken from the schedule, and the tick advances. -/
def takeMove (s : State) : State := { s with schedule := s.schedule.tail, tick := s.tick + 1 }

/-- Whether the CPU can step: the driver has not ended the run (60_exceptions.md R398; entry 6). -/
def cpuEnabled (s : State) : Bool := !s.driver.ended

/-- Whether the budget of the current run is used up, checked before each fetch (60_exceptions.md R381, R387). -/
def budgetUsed (s : State) : Bool := s.driver.budget = some s.driver.count

/-- The instruction at PC, or why there is none (30_encoding.md R117). -/
def fetchDecode (s : State) : Except DecodeError Instr := (decode s.fetchWindow).map Prod.fst

/-- The bytes recorded with an Illegal encoding (60_exceptions.md R383). -/
def illegalBytes : DecodeError → List Byte
  | .illegal bytes => bytes
  | .truncated => []

/-- One step of the CPU with its driver: TimesliceExpired, or one instruction with its port operation
(60_exceptions.md R381, R382, R393). Where the run has ended, nothing happens. -/
def cpuStep (s : State) : Host.Outcome State Fault Refusal :=
  if cpuEnabled s then
    if budgetUsed s then .next s.timeslice
    else
      match fetchDecode s with
      | .ok i => exec i s.countInstr
      | .error e => .next (s.countInstr.illegal (illegalBytes e))
  else .next s

/-- The step of a mover; `tick` is the step's own, the argument of its free values. A worker that is not enabled
does nothing (entry 3). -/
def moveStep (m : Move) (tick : Nat) (s : State) : Host.Outcome State Fault Refusal :=
  match m with
  | .agent .cpu => cpuStep s
  | .agent .consoleInput => .next (inputWorkerStep tick s)
  | .agent .consoleOutput => .next (outputWorkerStep tick s)
  | .agent .disk => .next (diskWorkerStep tick s)
  | .host action => .next (hostStep s action)

/-- The state in which the CPU's next step fetches and runs the bytes of a table word: they stand at PC, the CPU is
the next mover, no fault is recorded, the run has not ended and its budget is not used up (entry 13). -/
def placeInstr (s : State) (bytes : List Byte) : State :=
  { s with
    mem := memInstall s.mem s.pc bytes
    schedule := .agent .cpu :: s.schedule
    driver := { s.driver with fault := none, ended := false, count := 0, budget := none } }

end Sys2Proof.Machine
end

