-- ==== Sys2Proof/Machine/Step.lean ====
section
/-! DEFINITION. One step of the machine (60_exceptions.md R383, R393). -/

namespace Sys2Proof.Machine

/-- One atomic step of one agent; once a fatal fault is recorded the machine takes no step and answers it. -/
def step (s : State) : Host.Outcome State Fault Refusal :=
  match s.driver.fault with
  | some f => .fault f
  | none => moveStep (nextMove s) s.tick (takeMove s)

/-- The state whose next step fetches and runs the instruction of a table word (entries 13 and 14). -/
def State.withFetchWord (s : State) (nbits w : Nat) : State := placeInstr s (tableWindow nbits w)

end Sys2Proof.Machine
end

