-- ==== Sys2Proof/Safety.lean ====
section
/-! DEFINITION. The terms claims use: what a good state, a good end and a fair run are, and what it means that a step
leaves something unchanged. -/

namespace Sys2Proof.Safety

open Sys2Proof.Machine

/-! ### Ends of a run (60_exceptions.md R398) -/

/-- A fatal fault is recorded: a failed end. -/
def Faulted (s : State) : Prop := s.driver.fault ≠ none

/-- `run` returned Halt, the driver has ended the run, and no fault is recorded: a successful end. -/
def Ended (s : State) : Prop := s.driver.ended = true ∧ s.driver.stopReason = some .halt ∧ s.driver.fault = none

/-! ### Invariants -/

/-- At most one output byte is in flight (44_console.md R301). -/
def ConsoleInv (c : Console) : Prop := c.outPending ≠ none → c.outReady = false

/-- At most one disk command is in flight, and only while Busy (45_disk.md R332); OpError never shows (R357); a queued
stop command waits for a pending command (R348). -/
def DiskInv (d : Disk) : Prop :=
  (d.pending ≠ none ∨ d.done ≠ none → d.status = .busy) ∧ ¬(d.pending ≠ none ∧ d.done ≠ none) ∧
    d.status ≠ .opError ∧ (d.workerState = .stopping → d.pending ≠ none)

/-- The backing store is in canonical form and holds no byte past its size (45_disk.md R333). -/
def ImageInv (d : Disk) : Prop := storeWf (imageSize d.heads d.tracks d.sectors) 0 d.image = true

/-- The model's invariant: memory and image in canonical form, and the device invariants of the spec. -/
def Inv (s : State) : Prop :=
  Memory.wf s.mem = true ∧ ImageInv s.disk ∧ ConsoleInv s.console ∧ DiskInv s.disk

/-! ### What stays the same -/

/-- Every byte of memory reads as before. -/
def SameMem (s t : State) : Prop := ∀ a : Word, memRead t.mem a = memRead s.mem a

/-- Every byte of memory but the one at `w` reads as before. -/
def SameMemBut (w : Word) (s t : State) : Prop := ∀ a : Word, a ≠ w → memRead t.mem a = memRead s.mem a

/-- Everything outside the CPU and its memory is as before: the devices, the driver, the launch parameters, the
oracles, and who moves next. -/
def SameOutside (s t : State) : Prop :=
  t.console = s.console ∧ t.disk = s.disk ∧ t.driver = s.driver ∧ t.launch = s.launch ∧
    t.conFail = s.conFail ∧ t.diskFail = s.diskFail ∧ t.schedule = s.schedule ∧ t.tick = s.tick

/-- Every 8-bit register of the main set that is not in `written` is as before; F is not one of them. -/
def SameR8But (written : List Reg8) (s t : State) : Prop := ∀ r : Reg8, r ∉ written → t.getR8 r = s.getR8 r

/-- IX, IY, SP and the shadow set are as before. -/
def SameOthers (s t : State) : Prop := t.ix = s.ix ∧ t.iy = s.iy ∧ t.sp = s.sp ∧ t.alt = s.alt

/-- The frame of an instruction that writes only 8-bit registers in `written`, and perhaps F and PC. -/
def OnlyR8 (written : List Reg8) (s t : State) : Prop :=
  SameR8But written s t ∧ SameOthers s t ∧ SameMem s t ∧ SameOutside s t

/-! ### Whose step it is -/

/-- The CPU takes the next step and executes an instruction in it: no fault is recorded, the CPU is the next mover,
the run has not ended and its budget is not used up (60_exceptions.md R381, R383, R393). -/
def CpuRuns (s : State) : Prop :=
  s.driver.fault = none ∧ nextMove s = .agent .cpu ∧ s.driver.ended = false ∧ s.driver.budget ≠ some s.driver.count

/-- The state an instruction executes in: its move is taken, and it counts against the budget. -/
def started (s : State) : State := (takeMove s).countInstr

/-- An agent takes the next step. -/
def Moves (who : Agent) (s : State) : Prop := s.driver.fault = none ∧ nextMove s = .agent who

/-- No answer of an oracle is a failure, now or later (00_scope.md R7). -/
def NeverFails (o : Oracle) : Prop := o.answers = [] ∧ o.free = false

/-- The oracle's next answer is `b`, whatever the answers that are left open (00_scope.md R7). -/
def NextAnswer (o : Oracle) (b : Bool) : Prop :=
  o.answers.head? = some b ∨ (o.answers = [] ∧ o.free = false ∧ b = false)

/-- An oracle after one question: its first listed answer, if any, is used up (entry 9). -/
def Asked (o o' : Oracle) : Prop := o' = { o with answers := o.answers.tail }

/-- What every worker step leaves alone, and the bookkeeping of the step itself. -/
def WorkerKeeps (s t : State) : Prop :=
  t.main = s.main ∧ SameOthers s t ∧ t.pc = s.pc ∧ t.mem = s.mem ∧ t.launch = s.launch ∧
    t.schedule = s.schedule.tail ∧ t.tick = s.tick + 1

/-- A console worker's step leaves the disk and its oracle alone too. -/
def ConsoleWorkerKeeps (s t : State) : Prop := WorkerKeeps s t ∧ t.disk = s.disk ∧ t.diskFail = s.diskFail

/-- The disk worker's step leaves the console, its oracle and the driver alone too. -/
def DiskWorkerKeeps (s t : State) : Prop :=
  WorkerKeeps s t ∧ t.console = s.console ∧ t.conFail = s.conFail ∧ t.driver = s.driver

/-- The worker state after a command is completed (45_disk.md R348; entry 12). -/
def workerAfter (d : Disk) : WorkerState := if d.workerState = .stopping then .stopped else d.workerState

/-! ### Encodings -/

/-- The instruction's bytes, first byte first, as its rule's encoding line gives them: they decode to it, whatever
bytes follow. -/
def EncodedAs (i : Instr) (bytes : List Byte) : Prop := ∀ rest : List Byte, decode (bytes ++ rest) = .ok (i, rest)

/-! ### Runs and fairness (44_console.md R313, 45_disk.md R356) -/

/-- An infinite run: each state is the next one of the state before it. -/
def IsRun (σ : Nat → State) : Prop := ∀ n, step (σ n) = .next (σ (n + 1))

/-- A worker's step is enabled. For the input worker this is while INPUT is not empty (44_console.md R313). -/
def workerEnabled (who : Agent) (s : State) : Bool :=
  match who with
  | .cpu => cpuEnabled s
  | .consoleInput => consoleInputEnabled s.console && (consoleNextInput s.console s.tick).isSome
  | .consoleOutput => consoleOutputEnabled s.console
  | .disk => diskWorkerEnabled s.disk

/-- Weak fairness of an agent: if from some point on it is always enabled, it moves at some later point. -/
def WeaklyFair (who : Agent) (σ : Nat → State) : Prop :=
  ∀ n, (∀ m, n ≤ m → workerEnabled who (σ m) = true) → ∃ m, n ≤ m ∧ nextMove (σ m) = .agent who

/-! ### The spec's number notation (00_scope.md R10) -/

/-- `s8(v)`: the two's-complement reading of a byte. -/
def s8 (v : Byte) : Int := if v.toNat < 128 then v.toNat else (v.toNat : Int) - 256

/-- `s16(v)` (42_arith_logic.md R240). -/
def s16 (v : Word) : Int := if v.toNat < 32768 then v.toNat else (v.toNat : Int) - 65536

/-- The target of a relative jump, read on integers: the signed displacement added modulo 65536 (40_control.md R153). -/
def jumpTarget (pcAfter : Word) (e : Byte) : Word := BitVec.ofInt 16 ((pcAfter.toNat : Int) + s8 e)

/-- An indexed address, read on integers (20_memory.md R88). -/
def indexTarget (base : Word) (d : Byte) : Word := BitVec.ofInt 16 ((base.toNat : Int) + s8 d)

/-! ### The flag rules of 42_arith_logic.md, as relations between the old F, the operands, the result and the new F -/

/-- Bits 5 and 3 of F keep their value (10_state.md R36). -/
def KeepsUnused (f f' : Byte) : Prop := flagY f' = flagY f ∧ flagX f' = flagX f

/-- 8-bit addition (42_arith_logic.md R220). -/
def Add8Rule (f a b : Byte) (cin : Nat) (res f' : Byte) : Prop :=
  res.toNat = (a.toNat + b.toNat + cin) % 256 ∧ flagS f' = res.getLsbD 7 ∧ (flagZ f' = true ↔ res = 0) ∧
    (flagH f' = true ↔ (a &&& 0x0F).toNat + (b &&& 0x0F).toNat + cin ≥ 0x10) ∧
    (flagPV f' = true ↔ s8 a + s8 b + cin < -128 ∨ s8 a + s8 b + cin > 127) ∧ flagN f' = false ∧
    (flagC f' = true ↔ a.toNat + b.toNat + cin ≥ 0x100) ∧ KeepsUnused f f'

/-- 8-bit logical and (42_arith_logic.md R221). -/
def And8Rule (f a b res f' : Byte) : Prop :=
  res = a &&& b ∧ flagS f' = res.getLsbD 7 ∧ (flagZ f' = true ↔ res = 0) ∧ flagH f' = true ∧
    (flagPV f' = true ↔ ((List.range 8).filter fun k => res.getLsbD k).length % 2 = 0) ∧ flagN f' = false ∧
    flagC f' = false ∧ KeepsUnused f f'

/-- 8-bit compare (42_arith_logic.md R222). -/
def Sub8Rule (f a b f' : Byte) : Prop :=
  flagS f' = (a - b).getLsbD 7 ∧ (flagZ f' = true ↔ a = b) ∧
    (flagH f' = true ↔ (a &&& 0x0F).toNat < (b &&& 0x0F).toNat) ∧
    (flagPV f' = true ↔ s8 a - s8 b < -128 ∨ s8 a - s8 b > 127) ∧ flagN f' = true ∧
    (flagC f' = true ↔ a.toNat < b.toNat) ∧ KeepsUnused f f'

/-- 16-bit addition (42_arith_logic.md R240), with all flags or with S, Z and PV kept. -/
def Add16Rule (f : Byte) (a b : Word) (cin : Nat) (full : Bool) (res : Word) (f' : Byte) : Prop :=
  res.toNat = (a.toNat + b.toNat + cin) % 65536 ∧
    (flagH f' = true ↔ (a &&& 0x0FFF).toNat + (b &&& 0x0FFF).toNat + cin ≥ 0x1000) ∧ flagN f' = false ∧
    (flagC f' = true ↔ a.toNat + b.toNat + cin ≥ 0x10000) ∧ KeepsUnused f f' ∧
    (if full then
      flagS f' = res.getLsbD 15 ∧ (flagZ f' = true ↔ res = 0) ∧
        (flagPV f' = true ↔ s16 a + s16 b + cin < -32768 ∨ s16 a + s16 b + cin > 32767)
    else flagS f' = flagS f ∧ flagZ f' = flagZ f ∧ flagPV f' = flagPV f)

/-- Bit test (42_arith_logic.md R238). -/
def BitRule (f v : Byte) (k : BitVec 3) (f' : Byte) : Prop :=
  flagZ f' = !v.getLsbD k.toNat ∧ flagPV f' = !v.getLsbD k.toNat ∧
    (flagS f' = true ↔ k = 7 ∧ v.getLsbD k.toNat = true) ∧ flagH f' = true ∧ flagN f' = false ∧
    flagC f' = flagC f ∧ KeepsUnused f f'

/-! ### Ports -/

/-- The driver's bookkeeping after a port instruction whose port operation succeeds: `run` returned `r`, and the
driver has called `run` again (60_exceptions.md R380, R382). -/
def PortStop (r : StopReason) (s t : State) : Prop :=
  t.driver = { s.driver with
    stopReason := some r, count := 0, budget := nextBudget s.driver s.tick, budgets := s.driver.budgets.tail }

/-- What no port instruction touches: every 8-bit register but those in `written`, F, IX, IY, SP, the shadow set, the
launch parameters, the oracles and the schedule. -/
def PortKeeps (written : List Reg8) (s t : State) : Prop :=
  SameR8But written s t ∧ t.main.f = s.main.f ∧ SameOthers s t ∧ t.launch = s.launch ∧ t.conFail = s.conFail ∧
    t.diskFail = s.diskFail ∧ t.schedule = s.schedule ∧ t.tick = s.tick

/-- The ports of direction in (43_port_io.md R273). -/
def inPorts : List Byte := [1, 2, 3, 4, 11, 12, 13]

/-- The ports of direction out (43_port_io.md R273). -/
def outPorts : List Byte := [0, 5, 6, 7, 8, 9, 10]

/-- The offset of a sector in the data region (45_disk.md R334). -/
def sectorOffset (d : Disk) (h t s : Byte) : Nat :=
  ((h.toNat * d.tracks.toNat + t.toNat) * d.sectors.toNat + s.toNat) * 128

/-- A sector of the disk's geometry (45_disk.md R339). -/
def InGeometry (d : Disk) (h t s : Byte) : Prop :=
  h.toNat < d.heads.toNat ∧ t.toNat < d.tracks.toNat ∧ s.toNat < d.sectors.toNat

/-- The unprefixed opcode bytes that 30_encoding.md R118 lists as Illegal. -/
def listedIllegal (op : Byte) : Bool :=
  [0x07, 0x0F, 0x10, 0x17, 0x1F, 0x27, 0x2F, 0x30, 0x37, 0x38, 0x3F, 0xDA, 0xDC, 0xEC, 0xFF].contains op.toNat ||
    [(0x02, 0x05), (0x0A, 0x0D), (0x12, 0x15), (0x1A, 0x1D), (0x22, 0x25), (0x2A, 0x2D), (0x32, 0x35), (0x3A, 0x3D),
      (0x90, 0x9F), (0xA8, 0xBF), (0xC0, 0xC2), (0xC4, 0xCA), (0xCC, 0xD2), (0xD4, 0xD8), (0xDE, 0xEA),
      (0xEE, 0xFC)].any fun r => r.1 ≤ op.toNat && op.toNat ≤ r.2

/-- The instructions that write F (10_state.md R37). -/
def writesF : Instr → Bool
  | .addAR _ | .addAHl | .addAIx _ | .addAIy _ | .adcAR _ | .adcAHl | .adcAIx _ | .adcAIy _ => true
  | .andR _ | .andHl | .andIx _ | .andIy _ | .cpN _ | .addHlSs _ | .adcHlSs _ | .bitR _ _ | .bitHl _ => true
  | .exAfAf => true
  | .nop | .halt | .jrE _ | .jrNzE _ | .jrZE _ | .jpNn _ | .ldAN _ | .ldRN _ _ | .ldHlN _ | .ldRR _ _ => false
  | .ldRHl _ | .ldHlR _ | .ldDdNn _ _ | .ldIxNn _ | .ldIyNn _ | .exx | .exDeHl | .inAN _ | .outNA _ => false

/-- The port instructions (43_port_io.md). -/
def isPort : Instr → Bool
  | .inAN _ | .outNA _ => true
  | .nop | .halt | .jrE _ | .jrNzE _ | .jrZE _ | .jpNn _ | .ldAN _ | .ldRN _ _ | .ldHlN _ | .ldRR _ _ => false
  | .ldRHl _ | .ldHlR _ | .ldDdNn _ _ | .ldIxNn _ | .ldIyNn _ | .exx | .exDeHl | .exAfAf => false
  | .addAR _ | .addAHl | .addAIx _ | .addAIy _ | .adcAR _ | .adcAHl | .adcAIx _ | .adcAIy _ => false
  | .andR _ | .andHl | .andIx _ | .andIy _ | .cpN _ | .addHlSs _ | .adcHlSs _ | .bitR _ _ | .bitHl _ => false

/-- The instructions whose rule assigns PC (40_control.md R150, R153 to R157). -/
def assignsPc : Instr → Bool
  | .jrE _ | .jrNzE _ | .jrZE _ | .jpNn _ => true
  | .nop | .halt | .ldAN _ | .ldRN _ _ | .ldHlN _ | .ldRR _ _ => false
  | .ldRHl _ | .ldHlR _ | .ldDdNn _ _ | .ldIxNn _ | .ldIyNn _ | .exx | .exDeHl | .exAfAf => false
  | .addAR _ | .addAHl | .addAIx _ | .addAIy _ | .adcAR _ | .adcAHl | .adcAIx _ | .adcAIy _ => false
  | .andR _ | .andHl | .andIx _ | .andIy _ | .cpN _ | .addHlSs _ | .adcHlSs _ | .bitR _ _ | .bitHl _ => false
  | .inAN _ | .outNA _ => false

end Sys2Proof.Safety
end

