-- ==== Sys2Proof/Certificates/Slice0/Obligations.lean ====
section
/-! DEFINITION. The statements about the model, drawn from the numbered rules of spec/. -/

section

open Sys2Proof Sys2Proof.Machine Sys2Proof.Safety

/-! ### Reset, boot and the host -/

/-- `reset()` makes every CPU register 0 and changes nothing else (10_state.md R45, 70_reset_and_hazards.md R420). -/
def Obligations.ResetZeroesRegistersOnly : Prop :=
  ∀ s : State, ∃ t, hostStep s .reset = t ∧
    (∀ r, t.getR8 r = 0 ∧ t.alt.get r = 0) ∧ t.main.f = 0 ∧ t.alt.f = 0 ∧
    t.ix = 0 ∧ t.iy = 0 ∧ t.sp = 0 ∧ t.pc = 0 ∧ SameMem s t ∧ SameOutside s t

/-- The entry point after reset (70_reset_and_hazards.md R423). -/
def Obligations.ResetEntryPoint : Prop :=
  State.reset.pc = 0x0000 ∧ State.reset.sp = 0x0000 ∧ State.reset.ix = 0x0000 ∧ State.reset.iy = 0x0000 ∧
    (∀ r, State.reset.getR8 r = 0) ∧ State.reset.main.f = 0x00 ∧ (∀ r, State.reset.alt.get r = 0) ∧
    State.reset.alt.f = 0x00

/-- The devices of a booted machine have the initial state of 10_state.md R46, 44_console.md R302 and 45_disk.md R335,
each value a decision of the spec; `reset()`, the last step of the boot, changes none of it. -/
def Obligations.BootLeavesDevicesInitial : Prop :=
  ∀ (p : LaunchParams) (s : State), boot p = .next s →
    s.console.inAvail = false ∧ s.console.inByte = 0x00 ∧ s.console.outReady = true ∧ s.console.outPending = none ∧
    s.console.inputState = .live ∧ s.console.output = [] ∧ s.console.input = p.input ∧
    s.console.inputTail = p.inputTail ∧
    s.disk.head = 0x00 ∧ s.disk.track = 0x00 ∧ s.disk.sector = 0x00 ∧ s.disk.addr = 0x0000 ∧
    s.disk.status = .ready ∧ s.disk.latchHead = 0x00 ∧ s.disk.latchTrack = 0x00 ∧ s.disk.pending = none ∧
    s.disk.done = none ∧ s.disk.workerState = .running ∧ s.disk.buffer = p.buf0 ∧
    (hostStep s .reset).console = s.console ∧ (hostStep s .reset).disk = s.disk

/-- The ROM is installed at ROM_BASE = 0x0000 before the reset, over MEM0 (70_reset_and_hazards.md R421). -/
def Obligations.BootInstallsRomAtZero : Prop :=
  ∀ (p : LaunchParams) (s : State), boot p = .next s →
    s.pc = 0x0000 ∧ s.mem = memInstall p.mem0 0x0000 p.rom ∧
    (p.rom.length ≤ 65536 → memBytes s.mem 0x0000 p.rom.length = p.rom ∧
      ∀ a : Word, p.rom.length ≤ a.toNat → memRead s.mem a = memRead p.mem0 a)

/-- The machine never starts, with ConfigurationError, exactly where the image file is not its data region and three
trailing geometry bytes; where it is, the geometry and the data are the disk's, and no step changes the geometry
(45_disk.md R333). -/
def Obligations.ImageFileFixesGeometry : Prop :=
  (∀ p : LaunchParams, construct p = .fault .configurationError ↔
    ¬∃ (data : List Byte) (h t s : Byte),
      p.imageFile = data ++ [h, t, s] ∧ p.imageFile.length = h.toNat * t.toNat * s.toNat * 128 + 3) ∧
  (∀ (p : LaunchParams) (data : List Byte) (h t s : Byte), p.imageFile = data ++ [h, t, s] →
    p.imageFile.length = h.toNat * t.toNat * s.toNat * 128 + 3 →
    ∃ m, construct p = .next m ∧ m.disk.heads = h ∧ m.disk.tracks = t ∧ m.disk.sectors = s ∧
      ∀ (k : Nat) (hk : k < data.length), readCell m.disk.image k = data[k]) ∧
  (∀ s t : State, step s = .next t →
    t.disk.heads = s.disk.heads ∧ t.disk.tracks = s.disk.tracks ∧ t.disk.sectors = s.disk.sectors)

/-- `install` stores its bytes one after another from the address on, wrapping at the 64 KiB boundary, in order, and
nothing else (20_memory.md R90). -/
def Obligations.InstallWritesInOrder : Prop :=
  (∀ (m : Store) (a : Word) (bytes : List Byte) (v : Byte),
    memInstall m a [] = m ∧
    memInstall m a (bytes ++ [v]) = memWrite (memInstall m a bytes) (a + BitVec.ofNat 16 bytes.length) v) ∧
  (∀ (m : Store) (a : Word) (bytes : List Byte), bytes.length ≤ 65536 →
    memBytes (memInstall m a bytes) a bytes.length = bytes) ∧
  (∀ (m : Store) (a x : Word) (bytes : List Byte), (∀ k < bytes.length, x ≠ a + BitVec.ofNat 16 k) →
    memRead (memInstall m a bytes) x = memRead m x)

/-! ### Encoding -/

/-- Decoding the encoding of any well-formed instruction, with any bytes after it, gives that instruction back, at
every value of every operand. -/
def Obligations.DecodeEncodeRoundTrip : Prop :=
  ∀ (i : Instr) (rest : List Byte), i.wellFormed = true → decode (encode i ++ rest) = .ok (i, rest)

/-- What the decoder accepts is the encoding of a well-formed instruction and the bytes after it: each byte sequence
has one meaning. -/
def Obligations.DecodedBytesAreTheEncoding : Prop :=
  ∀ (bytes rest : List Byte) (i : Instr), decode bytes = .ok (i, rest) →
    i.wellFormed = true ∧ bytes = encode i ++ rest

/-- The page after 0xCB (30_encoding.md R119). -/
def Obligations.CbPageIsBitTest : Prop :=
  ∀ (op2 : Byte) (rest : List Byte),
    if 0x40 ≤ op2.toNat ∧ op2.toNat ≤ 0x7F then
      (if op2.extractLsb' 0 3 = 6 then decode (0xCB :: op2 :: rest) = .ok (.bitHl (op2.extractLsb' 3 3), rest)
      else ∃ r, fieldOfReg8 r = op2.extractLsb' 0 3 ∧
        decode (0xCB :: op2 :: rest) = .ok (.bitR (op2.extractLsb' 3 3) r, rest))
    else decode (0xCB :: op2 :: rest) = .error (.illegal [0xCB, op2])

/-- The page after 0xED (30_encoding.md R120). -/
def Obligations.EdPageIsAdcHl : Prop :=
  ∀ (op2 : Byte) (rest : List Byte),
    if op2 = 0x4A ∨ op2 = 0x5A ∨ op2 = 0x6A ∨ op2 = 0x7A then
      ∃ p, fieldOfPair p = op2.extractLsb' 4 2 ∧ decode (0xED :: op2 :: rest) = .ok (.adcHlSs p, rest)
    else decode (0xED :: op2 :: rest) = .error (.illegal [0xED, op2])

/-- The pages after 0xDD and 0xFD (30_encoding.md R121). -/
def Obligations.IndexPages : Prop :=
  (∀ (lo hi d : Byte) (rest : List Byte),
    decode (0xDD :: 0x21 :: lo :: hi :: rest) = .ok (.ldIxNn (hi ++ lo), rest) ∧
    decode (0xFD :: 0x21 :: lo :: hi :: rest) = .ok (.ldIyNn (hi ++ lo), rest) ∧
    decode (0xDD :: 0x86 :: d :: rest) = .ok (.addAIx d, rest) ∧
    decode (0xFD :: 0x86 :: d :: rest) = .ok (.addAIy d, rest) ∧
    decode (0xDD :: 0x8E :: d :: rest) = .ok (.adcAIx d, rest) ∧
    decode (0xFD :: 0x8E :: d :: rest) = .ok (.adcAIy d, rest) ∧
    decode (0xDD :: 0xA6 :: d :: rest) = .ok (.andIx d, rest) ∧
    decode (0xFD :: 0xA6 :: d :: rest) = .ok (.andIy d, rest)) ∧
  (∀ (op2 : Byte) (rest : List Byte), op2 ≠ 0x21 → op2 ≠ 0x86 → op2 ≠ 0x8E → op2 ≠ 0xA6 →
    decode (0xDD :: op2 :: rest) = .error (.illegal [0xDD, op2]) ∧
    decode (0xFD :: op2 :: rest) = .error (.illegal [0xFD, op2]))

/-- Of the unprefixed opcode bytes, exactly those 30_encoding.md R118 lists as Illegal are refused, and what is
refused records that one byte. -/
def Obligations.UnprefixedIllegalBytes : Prop :=
  ∀ (op : Byte) (b c : Byte) (rest : List Byte), op ≠ 0xCB → op ≠ 0xDD → op ≠ 0xED → op ≠ 0xFD →
    (listedIllegal op = true → decode (op :: b :: c :: rest) = .error (.illegal [op])) ∧
    (listedIllegal op = false → ∃ i after, decode (op :: b :: c :: rest) = .ok (i, after))

/-- A few words written out from opcode_table.json decode to their instructions. -/
def Obligations.SampleWordsDecode : Prop :=
  decode [0x3E, 0x41] = .ok (.ldAN 0x41, []) ∧ decode [0xD3, 0x00] = .ok (.outNA 0x00, []) ∧
    decode [0x76] = .ok (.halt, []) ∧ decode [0xC3, 0x34, 0x12] = .ok (.jpNn 0x1234, []) ∧
    decode [0x66] = .ok (.ldRHl .h, []) ∧ decode [0xCB, 0x76] = .ok (.bitHl 6, []) ∧
    decode [0xED, 0x7A] = .ok (.adcHlSs .sp, []) ∧ decode [0xDD, 0x86, 0xFF] = .ok (.addAIx 0xFF, [])

/-- Every byte sequence is an admitted instruction or Illegal, by its own first one or two bytes (30_encoding.md
R122); four bytes are always enough to tell. -/
def Obligations.EveryByteSequenceIsDecided : Prop :=
  ∀ bytes : List Byte, 4 ≤ bytes.length →
    (∃ i rest, decode bytes = .ok (i, rest) ∧ i.wellFormed = true) ∨
      ∃ n, (n = 1 ∨ n = 2) ∧ decode bytes = .error (.illegal (bytes.take n))

/-! ### Steps, stops and faults -/

/-- A step of the CPU runs the instruction the bytes at PC decode to, in the state whose move is taken and whose count
is advanced. -/
def Obligations.StepRunsDecodedInstruction : Prop :=
  ∀ (s : State) (i : Instr) (rest : List Byte), CpuRuns s → decode (memBytes s.mem s.pc 4) = .ok (i, rest) →
    step s = exec i (started s)

/-- Where memory holds the encoding of a well-formed instruction at PC, wrapping at the top of memory, a step of the
CPU runs that instruction. -/
def Obligations.StepRunsEncodedInstruction : Prop :=
  ∀ (s : State) (i : Instr), CpuRuns s → i.wellFormed = true →
    memBytes s.mem s.pc (instrLength i) = encode i → step s = exec i (started s)

/-- An Illegal encoding changes no register, flag or memory, leaves PC at its first byte, records the fault with the
address and bytes, and execution does not continue past it (30_encoding.md R123, 60_exceptions.md R384). -/
def Obligations.IllegalEncodingIsFatal : Prop :=
  ∀ (s : State) (bytes : List Byte), CpuRuns s → decode (memBytes s.mem s.pc 4) = .error (.illegal bytes) →
    ∃ t, step s = .next t ∧ t.main = s.main ∧ SameOthers s t ∧ t.pc = s.pc ∧ SameMem s t ∧
      t.console = s.console ∧ t.disk = s.disk ∧ t.driver.fault = some (.illegalOpcode s.pc bytes) ∧
      t.driver.stopReason = some (.illegal s.pc bytes) ∧ step t = .fault (.illegalOpcode s.pc bytes)

/-- The machine stops exactly where a fatal fault is recorded, with that fault, and a recorded fault is final: no step
is refused, and no instruction and no device step stops the machine any other way (60_exceptions.md 2). -/
def Obligations.OnlyRecordedFaultsStop : Prop :=
  ∀ s : State, (∀ f, step s = .fault f ↔ s.driver.fault = some f) ∧
    (s.driver.fault = none → ∃ t, step s = .next t)

/-- Where the budget is used up, `run` returns TimesliceExpired, no architectural state changes, and the driver calls
`run` again with the next budget (60_exceptions.md 1). -/
def Obligations.TimesliceExpires : Prop :=
  ∀ s : State, Moves .cpu s → s.driver.ended = false → s.driver.budget = some s.driver.count →
    ∃ t, step s = .next t ∧ t.main = s.main ∧ SameOthers s t ∧ t.pc = s.pc ∧ SameMem s t ∧
      t.console = s.console ∧ t.disk = s.disk ∧ PortStop .timesliceExpired (takeMove s) t ∧ t.driver.fault = none

/-! ### Control instructions -/

/-- NOP leaves everything but PC unchanged (40_control.md R151). -/
def Obligations.NopOnlyAdvances : Prop :=
  EncodedAs .nop [0x00] ∧ ∀ s : State, ∃ t, exec .nop s = .next t ∧ t.pc = s.pc + 1 ∧ t.main.f = s.main.f ∧ OnlyR8 [] s t

/-- HALT stops with Halt, PC after its byte, and changes nothing but PC and the driver's record of the stop; if the
driver calls `run` again, execution continues at PC (40_control.md R152). -/
def Obligations.HaltStopsAfterItsByte : Prop :=
  EncodedAs .halt [0x76] ∧ ∀ (s : State) (budget : Nat), ∃ t, exec .halt s = .next t ∧ t.pc = s.pc + 1 ∧ t.main = s.main ∧ SameOthers s t ∧
    SameMem s t ∧ t.console = s.console ∧ t.disk = s.disk ∧
    t.driver = { s.driver with stopReason := some .halt, ended := true } ∧ t.launch = s.launch ∧
    t.conFail = s.conFail ∧ t.diskFail = s.diskFail ∧ t.schedule = s.schedule ∧ t.tick = s.tick ∧
    (hostStep t (.run budget)).pc = t.pc ∧ cpuEnabled (hostStep t (.run budget)) = true

/-- JR, JR NZ and JR Z: the target is the address after the instruction plus the signed displacement, modulo 65536,
taken as the condition says (40_control.md R153 to R156). -/
def Obligations.RelativeJumps : Prop :=
  ∀ (s : State) (e : Byte),
    EncodedAs (.jrE e) [0x18, e] ∧ EncodedAs (.jrNzE e) [0x20, e] ∧ EncodedAs (.jrZE e) [0x28, e] ∧
    (∃ t, exec (.jrE e) s = .next t ∧ t.pc = jumpTarget (s.pc + 2) e ∧ t.main.f = s.main.f ∧ OnlyR8 [] s t) ∧
    (∃ t, exec (.jrNzE e) s = .next t ∧ t.pc = (if flagZ s.main.f = false then jumpTarget (s.pc + 2) e else s.pc + 2) ∧
      t.main.f = s.main.f ∧ OnlyR8 [] s t) ∧
    (∃ t, exec (.jrZE e) s = .next t ∧ t.pc = (if flagZ s.main.f = true then jumpTarget (s.pc + 2) e else s.pc + 2) ∧
      t.main.f = s.main.f ∧ OnlyR8 [] s t)

/-- JP nn (40_control.md R157). -/
def Obligations.AbsoluteJump : Prop :=
  ∀ (s : State) (nn : Word), EncodedAs (.jpNn nn) [0xC3, nn.extractLsb' 0 8, nn.extractLsb' 8 8] ∧ ∃ t, exec (.jpNn nn) s = .next t ∧ t.pc = nn ∧ t.main.f = s.main.f ∧ OnlyR8 [] s t

/-! ### Loads and exchanges -/

/-- The 8-bit loads into a register (41_load_exchange.md R180, R181, R183, R184); no flag is written. -/
def Obligations.LoadRegister : Prop :=
  ∀ (s : State) (dst src : Reg8) (n : Byte),
    EncodedAs (.ldAN n) [0x3E, n] ∧
    (dst ≠ .a → EncodedAs (.ldRN dst n) [0b00#2 ++ fieldOfReg8 dst ++ 0b110#3, n]) ∧
    EncodedAs (.ldRR dst src) [0b01#2 ++ fieldOfReg8 dst ++ fieldOfReg8 src] ∧
    EncodedAs (.ldRHl dst) [0b01#2 ++ fieldOfReg8 dst ++ 0b110#3] ∧
    (∃ t, exec (.ldAN n) s = .next t ∧ t.main.a = n ∧ t.pc = s.pc + 2 ∧ t.main.f = s.main.f ∧ OnlyR8 [.a] s t) ∧
    (∃ t, exec (.ldRN dst n) s = .next t ∧ t.getR8 dst = n ∧ t.pc = s.pc + 2 ∧ t.main.f = s.main.f ∧
      OnlyR8 [dst] s t) ∧
    (∃ t, exec (.ldRR dst src) s = .next t ∧ t.getR8 dst = s.getR8 src ∧ t.pc = s.pc + 1 ∧ t.main.f = s.main.f ∧
      OnlyR8 [dst] s t) ∧
    (∃ t, exec (.ldRHl dst) s = .next t ∧ t.getR8 dst = memRead s.mem (s.main.h ++ s.main.l) ∧ t.pc = s.pc + 1 ∧
      t.main.f = s.main.f ∧ OnlyR8 [dst] s t)

/-- The stores LD (HL),n and LD (HL),r write the byte at HL and no other (41_load_exchange.md R182, R185). -/
def Obligations.StoreAtHl : Prop :=
  ∀ (s : State) (src : Reg8) (n : Byte),
    EncodedAs (.ldHlN n) [0x36, n] ∧ EncodedAs (.ldHlR src) [0b01110#5 ++ fieldOfReg8 src] ∧
    (∃ t, exec (.ldHlN n) s = .next t ∧ memRead t.mem (s.main.h ++ s.main.l) = n ∧
      SameMemBut (s.main.h ++ s.main.l) s t ∧ t.pc = s.pc + 2 ∧ t.main = s.main ∧ SameOthers s t ∧ SameOutside s t) ∧
    (∃ t, exec (.ldHlR src) s = .next t ∧ memRead t.mem (s.main.h ++ s.main.l) = s.getR8 src ∧
      SameMemBut (s.main.h ++ s.main.l) s t ∧ t.pc = s.pc + 1 ∧ t.main = s.main ∧ SameOthers s t ∧ SameOutside s t)

/-- The 16-bit loads (41_load_exchange.md R186, R187, R188): the first-named register of a pair is the high byte
(10_state.md R31); no flag is written. -/
def Obligations.LoadWord : Prop :=
  ∀ (s : State) (nn : Word),
    (∀ p, EncodedAs (.ldDdNn p nn) [0b00#2 ++ fieldOfPair p ++ 0b0001#4, nn.extractLsb' 0 8, nn.extractLsb' 8 8]) ∧
    EncodedAs (.ldIxNn nn) [0xDD, 0x21, nn.extractLsb' 0 8, nn.extractLsb' 8 8] ∧
    EncodedAs (.ldIyNn nn) [0xFD, 0x21, nn.extractLsb' 0 8, nn.extractLsb' 8 8] ∧
    (∃ t, exec (.ldDdNn .bc nn) s = .next t ∧ t.main.b = nn.extractLsb' 8 8 ∧ t.main.c = nn.extractLsb' 0 8 ∧
      t.pc = s.pc + 3 ∧ t.main.f = s.main.f ∧ OnlyR8 [.b, .c] s t) ∧
    (∃ t, exec (.ldDdNn .de nn) s = .next t ∧ t.main.d = nn.extractLsb' 8 8 ∧ t.main.e = nn.extractLsb' 0 8 ∧
      t.pc = s.pc + 3 ∧ t.main.f = s.main.f ∧ OnlyR8 [.d, .e] s t) ∧
    (∃ t, exec (.ldDdNn .hl nn) s = .next t ∧ t.main.h = nn.extractLsb' 8 8 ∧ t.main.l = nn.extractLsb' 0 8 ∧
      t.pc = s.pc + 3 ∧ t.main.f = s.main.f ∧ OnlyR8 [.h, .l] s t) ∧
    (∃ t, exec (.ldDdNn .sp nn) s = .next t ∧ t.sp = nn ∧ t.pc = s.pc + 3 ∧ t.main = s.main ∧ t.alt = s.alt ∧
      t.ix = s.ix ∧ t.iy = s.iy ∧ SameMem s t ∧ SameOutside s t) ∧
    (∃ t, exec (.ldIxNn nn) s = .next t ∧ t.ix = nn ∧ t.pc = s.pc + 4 ∧ t.main = s.main ∧ t.alt = s.alt ∧
      t.iy = s.iy ∧ t.sp = s.sp ∧ SameMem s t ∧ SameOutside s t) ∧
    (∃ t, exec (.ldIyNn nn) s = .next t ∧ t.iy = nn ∧ t.pc = s.pc + 4 ∧ t.main = s.main ∧ t.alt = s.alt ∧
      t.ix = s.ix ∧ t.sp = s.sp ∧ SameMem s t ∧ SameOutside s t)

/-- The exchanges (41_load_exchange.md R189, R190, R191), register by register. -/
def Obligations.Exchanges : Prop :=
  ∀ s : State,
    EncodedAs .exx [0xD9] ∧ EncodedAs .exDeHl [0xEB] ∧ EncodedAs .exAfAf [0x08] ∧
    (∃ t, exec .exx s = .next t ∧
      (∀ r, r ≠ .a → t.getR8 r = s.alt.get r ∧ t.alt.get r = s.getR8 r) ∧
      t.main.a = s.main.a ∧ t.main.f = s.main.f ∧ t.alt.a = s.alt.a ∧ t.alt.f = s.alt.f ∧
      t.ix = s.ix ∧ t.iy = s.iy ∧ t.sp = s.sp ∧ t.pc = s.pc + 1 ∧ SameMem s t ∧ SameOutside s t) ∧
    (∃ t, exec .exDeHl s = .next t ∧ t.main.d = s.main.h ∧ t.main.e = s.main.l ∧ t.main.h = s.main.d ∧
      t.main.l = s.main.e ∧ t.main.f = s.main.f ∧ t.pc = s.pc + 1 ∧ OnlyR8 [.d, .e, .h, .l] s t) ∧
    (∃ t, exec .exAfAf s = .next t ∧ t.main.a = s.alt.a ∧ t.main.f = s.alt.f ∧ t.alt.a = s.main.a ∧
      t.alt.f = s.main.f ∧ (∀ r, r ≠ .a → t.getR8 r = s.getR8 r ∧ t.alt.get r = s.alt.get r) ∧
      t.ix = s.ix ∧ t.iy = s.iy ∧ t.sp = s.sp ∧ t.pc = s.pc + 1 ∧ SameMem s t ∧ SameOutside s t)

/-! ### Arithmetic, logic, compare and bit test -/

/-- ADD A with a register, (HL), (IX+d) and (IY+d): A and the flags by 42_arith_logic.md R220, nothing else written
(R223 to R226; the indexed address is 20_memory.md R88's). -/
def Obligations.AddToAccumulator : Prop :=
  ∀ (s : State) (r : Reg8) (d : Byte),
    EncodedAs (.addAR r) [0b10000#5 ++ fieldOfReg8 r] ∧ EncodedAs .addAHl [0x86] ∧
    EncodedAs (.addAIx d) [0xDD, 0x86, d] ∧ EncodedAs (.addAIy d) [0xFD, 0x86, d] ∧
    (∃ t, exec (.addAR r) s = .next t ∧ Add8Rule s.main.f s.main.a (s.getR8 r) 0 t.main.a t.main.f ∧
      t.pc = s.pc + 1 ∧ OnlyR8 [.a] s t) ∧
    (∃ t, exec .addAHl s = .next t ∧
      Add8Rule s.main.f s.main.a (memRead s.mem (s.main.h ++ s.main.l)) 0 t.main.a t.main.f ∧
      t.pc = s.pc + 1 ∧ OnlyR8 [.a] s t) ∧
    (∃ t, exec (.addAIx d) s = .next t ∧
      Add8Rule s.main.f s.main.a (memRead s.mem (indexTarget s.ix d)) 0 t.main.a t.main.f ∧
      t.pc = s.pc + 3 ∧ OnlyR8 [.a] s t) ∧
    (∃ t, exec (.addAIy d) s = .next t ∧
      Add8Rule s.main.f s.main.a (memRead s.mem (indexTarget s.iy d)) 0 t.main.a t.main.f ∧
      t.pc = s.pc + 3 ∧ OnlyR8 [.a] s t)

/-- ADC A with a register, (HL), (IX+d) and (IY+d): the carry-in is F.C (42_arith_logic.md R227 to R230). -/
def Obligations.AddWithCarryToAccumulator : Prop :=
  ∀ (s : State) (r : Reg8) (d : Byte),
    EncodedAs (.adcAR r) [0b10001#5 ++ fieldOfReg8 r] ∧ EncodedAs .adcAHl [0x8E] ∧
    EncodedAs (.adcAIx d) [0xDD, 0x8E, d] ∧ EncodedAs (.adcAIy d) [0xFD, 0x8E, d] ∧
    (∃ t, exec (.adcAR r) s = .next t ∧
      Add8Rule s.main.f s.main.a (s.getR8 r) (flagC s.main.f).toNat t.main.a t.main.f ∧
      t.pc = s.pc + 1 ∧ OnlyR8 [.a] s t) ∧
    (∃ t, exec .adcAHl s = .next t ∧
      Add8Rule s.main.f s.main.a (memRead s.mem (s.main.h ++ s.main.l)) (flagC s.main.f).toNat t.main.a t.main.f ∧
      t.pc = s.pc + 1 ∧ OnlyR8 [.a] s t) ∧
    (∃ t, exec (.adcAIx d) s = .next t ∧
      Add8Rule s.main.f s.main.a (memRead s.mem (indexTarget s.ix d)) (flagC s.main.f).toNat t.main.a t.main.f ∧
      t.pc = s.pc + 3 ∧ OnlyR8 [.a] s t) ∧
    (∃ t, exec (.adcAIy d) s = .next t ∧
      Add8Rule s.main.f s.main.a (memRead s.mem (indexTarget s.iy d)) (flagC s.main.f).toNat t.main.a t.main.f ∧
      t.pc = s.pc + 3 ∧ OnlyR8 [.a] s t)

/-- AND with a register, (HL), (IX+d) and (IY+d) (42_arith_logic.md R221, R231 to R234). -/
def Obligations.AndAccumulator : Prop :=
  ∀ (s : State) (r : Reg8) (d : Byte),
    EncodedAs (.andR r) [0b10100#5 ++ fieldOfReg8 r] ∧ EncodedAs .andHl [0xA6] ∧
    EncodedAs (.andIx d) [0xDD, 0xA6, d] ∧ EncodedAs (.andIy d) [0xFD, 0xA6, d] ∧
    (∃ t, exec (.andR r) s = .next t ∧ And8Rule s.main.f s.main.a (s.getR8 r) t.main.a t.main.f ∧
      t.pc = s.pc + 1 ∧ OnlyR8 [.a] s t) ∧
    (∃ t, exec .andHl s = .next t ∧
      And8Rule s.main.f s.main.a (memRead s.mem (s.main.h ++ s.main.l)) t.main.a t.main.f ∧
      t.pc = s.pc + 1 ∧ OnlyR8 [.a] s t) ∧
    (∃ t, exec (.andIx d) s = .next t ∧
      And8Rule s.main.f s.main.a (memRead s.mem (indexTarget s.ix d)) t.main.a t.main.f ∧
      t.pc = s.pc + 3 ∧ OnlyR8 [.a] s t) ∧
    (∃ t, exec (.andIy d) s = .next t ∧
      And8Rule s.main.f s.main.a (memRead s.mem (indexTarget s.iy d)) t.main.a t.main.f ∧
      t.pc = s.pc + 3 ∧ OnlyR8 [.a] s t)

/-- CP n: the flags of 42_arith_logic.md R222, and only F written (R235). -/
def Obligations.CompareImmediate : Prop :=
  ∀ (s : State) (n : Byte), EncodedAs (.cpN n) [0xFE, n] ∧ ∃ t, exec (.cpN n) s = .next t ∧ Sub8Rule s.main.f s.main.a n t.main.f ∧
    t.pc = s.pc + 2 ∧ OnlyR8 [] s t

/-- ADD HL,ss and ADC HL,ss for every pair (42_arith_logic.md R236, R237, R240). -/
def Obligations.SixteenBitAddition : Prop :=
  ∀ (s : State) (p : Pair) (operand : Word),
    (operand = match p with
      | .bc => s.main.b ++ s.main.c
      | .de => s.main.d ++ s.main.e
      | .hl => s.main.h ++ s.main.l
      | .sp => s.sp) →
    EncodedAs (.addHlSs p) [0b00#2 ++ fieldOfPair p ++ 0b1001#4] ∧
    EncodedAs (.adcHlSs p) [0xED, 0b01#2 ++ fieldOfPair p ++ 0b1010#4] ∧
    (∃ t, exec (.addHlSs p) s = .next t ∧
      Add16Rule s.main.f (s.main.h ++ s.main.l) operand 0 false (t.main.h ++ t.main.l) t.main.f ∧
      t.pc = s.pc + 1 ∧ OnlyR8 [.h, .l] s t) ∧
    (∃ t, exec (.adcHlSs p) s = .next t ∧
      Add16Rule s.main.f (s.main.h ++ s.main.l) operand (flagC s.main.f).toNat true (t.main.h ++ t.main.l) t.main.f ∧
      t.pc = s.pc + 2 ∧ OnlyR8 [.h, .l] s t)

/-- BIT b,r and BIT b,(HL) write only F (42_arith_logic.md R238, R239). -/
def Obligations.BitTest : Prop :=
  ∀ (s : State) (k : BitVec 3) (r : Reg8),
    EncodedAs (.bitR k r) [0xCB, 0b01#2 ++ k ++ fieldOfReg8 r] ∧ EncodedAs (.bitHl k) [0xCB, 0b01#2 ++ k ++ 0b110#3] ∧
    (∃ t, exec (.bitR k r) s = .next t ∧ BitRule s.main.f (s.getR8 r) k t.main.f ∧ t.pc = s.pc + 2 ∧
      OnlyR8 [] s t) ∧
    (∃ t, exec (.bitHl k) s = .next t ∧ BitRule s.main.f (memRead s.mem (s.main.h ++ s.main.l)) k t.main.f ∧
      t.pc = s.pc + 2 ∧ OnlyR8 [] s t)

/-! ### Rules over all instructions -/

/-- Every instruction answers a next state, in every state: none is refused and none stops the machine by itself. -/
def Obligations.EveryInstructionCompletes : Prop := ∀ (i : Instr) (s : State), ∃ t, exec i s = .next t

/-- Unless its rule assigns PC, an instruction leaves PC at the address after its last byte, modulo 65536. -/
def Obligations.SequentialFlow : Prop :=
  ∀ (i : Instr) (s t : State), assignsPc i = false → exec i s = .next t →
    t.pc.toNat = (s.pc.toNat + instrLength i) % 65536

/-- Bits 5 and 3 of F are kept by every instruction but the exchange of AF, which replaces F whole. -/
def Obligations.UnusedFlagBitsKept : Prop :=
  ∀ (i : Instr) (s t : State), i ≠ .exAfAf → exec i s = .next t → KeepsUnused s.main.f t.main.f

/-- No instruction outside the flag writers of 10_state.md R37 changes F. -/
def Obligations.OnlyFlagWritersWriteF : Prop :=
  ∀ (i : Instr) (s t : State), writesF i = false → exec i s = .next t → t.main.f = s.main.f

/-- The shadow registers are written only by the exchange instructions: B' to L' by EXX, A' and F' by EX AF,AF'. -/
def Obligations.OnlyExchangesWriteShadow : Prop :=
  ∀ (i : Instr) (s t : State), exec i s = .next t →
    (i ≠ .exAfAf → t.alt.a = s.alt.a ∧ t.alt.f = s.alt.f) ∧
    (i ≠ .exx → ∀ r, r ≠ .a → t.alt.get r = s.alt.get r)

/-- IX, IY and SP are written only by their own loads (10_state.md R33). -/
def Obligations.OnlyLoadsWriteIndexAndSp : Prop :=
  ∀ (i : Instr) (s t : State), exec i s = .next t →
    ((∀ nn, i ≠ .ldIxNn nn) → t.ix = s.ix) ∧ ((∀ nn, i ≠ .ldIyNn nn) → t.iy = s.iy) ∧
    ((∀ nn, i ≠ .ldDdNn .sp nn) → t.sp = s.sp)

/-- Memory changes only by LD (HL),n and LD (HL),r, at HL, and by OUT (10),A with A = 4 while the disk is not Busy, in
the 128 bytes from the transfer address on. -/
def Obligations.OnlyStoresWriteMemory : Prop :=
  ∀ (i : Instr) (s t : State) (a : Word), exec i s = .next t → memRead t.mem a ≠ memRead s.mem a →
    (((∃ n, i = .ldHlN n) ∨ ∃ r, i = .ldHlR r) ∧ a = s.main.h ++ s.main.l) ∨
      (i = .outNA 10 ∧ s.main.a = 4 ∧ s.disk.status ≠ .busy ∧ ∃ k < 128, a = s.disk.addr + BitVec.ofNat 16 k)

/-- An instruction that is no port instruction neither reads nor changes a device: two states that agree on the
registers and on memory agree on them after it, and the devices are as before (20_memory.md R91). -/
def Obligations.NonPortInstructionsIgnoreDevices : Prop :=
  ∀ (i : Instr) (s s' t t' : State), isPort i = false →
    s'.main = s.main → s'.alt = s.alt → s'.ix = s.ix → s'.iy = s.iy → s'.sp = s.sp → s'.pc = s.pc →
    s'.mem = s.mem → exec i s = .next t → exec i s' = .next t' →
    t'.main = t.main ∧ t'.alt = t.alt ∧ t'.ix = t.ix ∧ t'.iy = t.iy ∧ t'.sp = t.sp ∧ t'.pc = t.pc ∧
      t'.mem = t.mem ∧ t.console = s.console ∧ t.disk = s.disk

/-! ### Ports -/

/-- What no port instruction touches, in every case: IN writes at most A, OUT no register, neither a flag;
and their encodings. -/
def Obligations.PortInstructionFrame : Prop :=
  ∀ (n : Byte) (s t : State),
    EncodedAs (.inAN n) [0xDB, n] ∧ EncodedAs (.outNA n) [0xD3, n] ∧
    (exec (.inAN n) s = .next t → PortKeeps [.a] s t ∧ SameMem s t ∧ t.pc = s.pc + 2) ∧
    (exec (.outNA n) s = .next t → PortKeeps [] s t ∧ t.pc = s.pc + 2)

/-- The ports that are read without side effect: the two console polls and the geometry (44_console.md R303, R304,
45_disk.md R347). -/
def Obligations.InWithoutSideEffect : Prop :=
  ∀ (s : State) (n v : Byte),
    (n = 1 ∧ v = (if s.console.outReady then 0x00 else 0xFF)) ∨
      (n = 2 ∧ v = (if s.console.inAvail then 0xFF else 0x00)) ∨
      (n = 11 ∧ v = s.disk.heads) ∨ (n = 12 ∧ v = s.disk.tracks) ∨ (n = 13 ∧ v = s.disk.sectors) →
    ∃ t, exec (.inAN n) s = .next t ∧ t.main.a = v ∧ t.pc = s.pc + 2 ∧ PortKeeps [.a] s t ∧ SameMem s t ∧
      t.console = s.console ∧ t.disk = s.disk ∧ PortStop (.portIn n) s t

/-- Port 3 returns the stored byte and clears availability, available or not; the byte is zeroed exactly where
CON_IN_ZERO_ON_READ (44_console.md R306). -/
def Obligations.InConsoleCharacter : Prop :=
  ∀ s : State, ∃ t, exec (.inAN 3) s = .next t ∧ t.main.a = s.console.inByte ∧ t.console.inAvail = false ∧
    t.console.inByte = (if s.launch.conInZeroOnRead then 0x00 else s.console.inByte) ∧
    t.console.outReady = s.console.outReady ∧ t.console.outPending = s.console.outPending ∧
    t.console.input = s.console.input ∧ t.console.inputTail = s.console.inputTail ∧
    t.console.inputState = s.console.inputState ∧ t.console.output = s.console.output ∧
    t.disk = s.disk ∧ SameMem s t ∧ t.pc = s.pc + 2 ∧ PortKeeps [.a] s t ∧ PortStop (.portIn 3) s t

/-- Port 4 polls the disk's status: while Busy with a completion reported, the status becomes the reported result and
the cell is cleared; else nothing changes. What is read is the code of the status after it (45_disk.md R331, R346). -/
def Obligations.InDiskStatus : Prop :=
  ∀ (s : State) (after : DiskStatus) (left : Option DiskResult),
    ((after, left) = match s.disk.status, s.disk.done with
      | .busy, some .ok => (.ready, none)
      | .busy, some .seekFail => (.seekError, none)
      | .busy, some .readFail => (.readError, none)
      | .busy, some .writeFail => (.writeError, none)
      | st, cell => (st, cell)) →
    ∃ t, exec (.inAN 4) s = .next t ∧ t.disk = { s.disk with status := after, done := left } ∧
      t.main.a = (match after with
        | .ready => 0x00
        | .busy => 0x01
        | .seekError => 0x02
        | .readError => 0x03
        | .writeError => 0x04
        | .opError => 0x05
        | .badParam => 0x06) ∧
      t.console = s.console ∧ SameMem s t ∧ t.pc = s.pc + 2 ∧ PortKeeps [.a] s t ∧ PortStop (.portIn 4) s t

/-- Port 0 takes the byte if the console is ready and drops it without a trace if not (44_console.md R305). -/
def Obligations.OutConsoleCharacter : Prop :=
  ∀ s : State, ∃ t, exec (.outNA 0) s = .next t ∧
    t.console = (if s.console.outReady then { s.console with outReady := false, outPending := some s.main.a }
      else s.console) ∧
    t.disk = s.disk ∧ SameMem s t ∧ t.pc = s.pc + 2 ∧ PortKeeps [] s t ∧ PortStop (.portOut 0 s.main.a) s t

/-- Ports 5 to 9 set the disk's control registers, each a no-op while Busy (45_disk.md R336, R337). -/
def Obligations.OutDiskRegister : Prop :=
  ∀ (s : State) (n : Byte) (after : Disk),
    (n = 5 ∧ after = { s.disk with head := s.main.a }) ∨ (n = 6 ∧ after = { s.disk with track := s.main.a }) ∨
      (n = 7 ∧ after = { s.disk with sector := s.main.a }) ∨
      (n = 8 ∧ after = { s.disk with addr := s.disk.addr.extractLsb' 8 8 ++ s.main.a }) ∨
      (n = 9 ∧ after = { s.disk with addr := s.main.a ++ s.disk.addr.extractLsb' 0 8 }) →
    ∃ t, exec (.outNA n) s = .next t ∧ t.disk = (if s.disk.status = .busy then s.disk else after) ∧
      t.console = s.console ∧ SameMem s t ∧ t.pc = s.pc + 2 ∧ PortKeeps [] s t ∧
      PortStop (.portOut n s.main.a) s t

/-- Commands 0, 1 and 2 on port 10: dropped while Busy, BadParam where the control registers are outside the geometry,
else Busy with the command dispatched (45_disk.md R339 to R342). -/
def Obligations.OutDiskDispatch : Prop :=
  ∀ (s : State) (c : DiskCommand),
    (s.main.a = 0 ∧ c = .read s.disk.sector) ∨ (s.main.a = 1 ∧ c = .write s.disk.sector) ∨
      (s.main.a = 2 ∧ c = .seek s.disk.head s.disk.track) →
    ∃ t, exec (.outNA 10) s = .next t ∧
      (s.disk.status = .busy → t.disk = s.disk) ∧
      (s.disk.status ≠ .busy → InGeometry s.disk s.disk.head s.disk.track s.disk.sector →
        t.disk = { s.disk with status := .busy, pending := some c }) ∧
      (s.disk.status ≠ .busy → ¬InGeometry s.disk s.disk.head s.disk.track s.disk.sector →
        t.disk = { s.disk with status := .badParam }) ∧
      t.console = s.console ∧ SameMem s t ∧ t.pc = s.pc + 2 ∧ PortKeeps [] s t ∧
      PortStop (.portOut 10 s.main.a) s t

/-- Commands 3 and 4 on port 10 copy 128 bytes between memory, from the transfer address on with wrap, and the
transfer buffer; both are no-ops while Busy (45_disk.md R354, R355). -/
def Obligations.OutDiskCopies : Prop :=
  ∀ s : State,
    (s.main.a = 3 → ∃ t, exec (.outNA 10) s = .next t ∧ SameMem s t ∧
      t.disk = { s.disk with buffer := t.disk.buffer } ∧
      (s.disk.status = .busy → t.disk.buffer = s.disk.buffer) ∧
      (s.disk.status ≠ .busy → ∀ (k : Nat) (hk : k < 128),
        t.disk.buffer[k] = memRead s.mem (s.disk.addr + BitVec.ofNat 16 k)) ∧
      t.console = s.console ∧ t.pc = s.pc + 2 ∧ PortKeeps [] s t ∧ PortStop (.portOut 10 3) s t) ∧
    (s.main.a = 4 → ∃ t, exec (.outNA 10) s = .next t ∧ t.disk = s.disk ∧
      (s.disk.status = .busy → SameMem s t) ∧
      (s.disk.status ≠ .busy → (∀ (k : Nat) (hk : k < 128),
          memRead t.mem (s.disk.addr + BitVec.ofNat 16 k) = s.disk.buffer[k]) ∧
        ∀ a : Word, (∀ k < 128, a ≠ s.disk.addr + BitVec.ofNat 16 k) → memRead t.mem a = memRead s.mem a) ∧
      t.console = s.console ∧ t.pc = s.pc + 2 ∧ PortKeeps [] s t ∧ PortStop (.portOut 10 4) s t)

/-- A (direction, port) pair that is not mapped is a fatal fault: no device state changes, and A is not written by an
IN (43_port_io.md R274). PC is past the instruction, where the stop before the port operation left it (60_exceptions.md
R380); that R274's words on registers speak of the port operation alone is the model's reading, entry 25. The fault is
recorded where none is recorded yet. -/
def Obligations.UnmappedPortsAreFatal : Prop :=
  ∀ (s : State) (n : Byte), s.driver.fault = none →
    (n ∉ inPorts → ∃ t, exec (.inAN n) s = .next t ∧ t.driver.fault = some (.unmappedPort .input n) ∧
      t.main = s.main ∧ SameOthers s t ∧ SameMem s t ∧ t.console = s.console ∧ t.disk = s.disk ∧
      t.pc = s.pc + 2 ∧ step t = .fault (.unmappedPort .input n)) ∧
    (n ∉ outPorts → ∃ t, exec (.outNA n) s = .next t ∧ t.driver.fault = some (.unmappedPort .output n) ∧
      t.main = s.main ∧ SameOthers s t ∧ SameMem s t ∧ t.console = s.console ∧ t.disk = s.disk ∧
      t.pc = s.pc + 2 ∧ step t = .fault (.unmappedPort .output n))

/-- A disk command byte above 4 is a fatal fault, Busy or not, and no disk state changes (45_disk.md R343). -/
def Obligations.BadDiskCommandIsFatal : Prop :=
  ∀ s : State, s.driver.fault = none → 4 < s.main.a.toNat →
    ∃ t, exec (.outNA 10) s = .next t ∧ t.driver.fault = some (.badDiskCommand s.main.a) ∧ t.disk = s.disk ∧
      t.main = s.main ∧ SameOthers s t ∧ SameMem s t ∧ t.console = s.console ∧
      step t = .fault (.badDiskCommand s.main.a)

/-- While the status is Busy every register write and command 0 to 4 is a no-op, command bytes above 4 still fault
(45_disk.md R344), and no step of any agent changes a control register. -/
def Obligations.BusyDropsOperations : Prop :=
  (∀ (s t : State) (n : Byte), s.disk.status = .busy → exec (.outNA n) s = .next t →
    t.disk = s.disk ∧ SameMem s t) ∧
  (∀ (s t : State), s.driver.fault = none → s.disk.status = .busy → 4 < s.main.a.toNat →
    exec (.outNA 10) s = .next t → t.driver.fault = some (.badDiskCommand s.main.a)) ∧
  (∀ s t : State, s.disk.status = .busy → step s = .next t →
    t.disk.head = s.disk.head ∧ t.disk.track = s.disk.track ∧ t.disk.sector = s.disk.sector ∧
      t.disk.addr = s.disk.addr)

/-! ### Workers -/

/-- The console workers: a byte of INPUT, listed or free, overwrites the stored one (44_console.md R310); the pending
byte is written and the console ready again (R311); the end of INPUT ends the worker or aborts as CON_EOF_ABORTS says,
once it has ended no byte ever arrives again, and a failure of either worker is the fatal ConsoleIOFailure where CON_FAIL
says so (R312). What else holds in a step that fails is entry 22, and that CON_FAIL is asked once in each step of an
enabled worker, the end-of-input step too, is entry 23. A worker with nothing to do changes nothing (entry 3). -/
def Obligations.ConsoleWorkerSteps : Prop :=
  ∀ s : State,
    (∀ b rest, Moves .consoleInput s → NextAnswer s.conFail false → s.console.inputState = .live →
      (s.console.input = b :: rest ∨ (s.console.input = [] ∧ rest = [] ∧ s.console.inputTail = .free ∧
        Config.inputByte s.tick = some b)) →
      ∃ t, step s = .next t ∧ t.console = { s.console with input := rest, inByte := b, inAvail := true } ∧
        t.driver = s.driver ∧ Asked s.conFail t.conFail ∧ ConsoleWorkerKeeps s t) ∧
    (∀ v, Moves .consoleOutput s → NextAnswer s.conFail false → s.console.outPending = some v →
      ∃ t, step s = .next t ∧
        t.console = { s.console with output := s.console.output ++ [v], outPending := none, outReady := true } ∧
        t.driver = s.driver ∧ Asked s.conFail t.conFail ∧ ConsoleWorkerKeeps s t) ∧
    (Moves .consoleInput s → NextAnswer s.conFail false → s.console.inputState = .live → s.console.input = [] →
      (s.console.inputTail = .ends ∨ (s.console.inputTail = .free ∧ Config.inputByte s.tick = none)) →
      ∃ t, step s = .next t ∧ Asked s.conFail t.conFail ∧ ConsoleWorkerKeeps s t ∧
        (s.launch.conEofAborts = false →
          t.console = { s.console with inputState := .ended } ∧ t.driver = s.driver) ∧
        (s.launch.conEofAborts = true →
          t.console = s.console ∧ t.driver = { s.driver with fault := some .consoleIOFailure })) ∧
    (NextAnswer s.conFail true →
      (Moves .consoleInput s ∧ s.console.inputState = .live) ∨
        (Moves .consoleOutput s ∧ s.console.outPending ≠ none) →
      ∃ t, step s = .next t ∧ t.console = s.console ∧
        t.driver = { s.driver with fault := some .consoleIOFailure } ∧ Asked s.conFail t.conFail ∧
        ConsoleWorkerKeeps s t) ∧
    ((Moves .consoleInput s ∧ s.console.inputState = .ended) ∨
        (Moves .consoleOutput s ∧ s.console.outPending = none) → step s = .next (takeMove s)) ∧
    (∀ t, s.console.inputState = .ended → step s = .next t →
      t.console.inputState = .ended ∧ t.console.input = s.console.input ∧
        (t.console.inAvail = true → s.console.inAvail = true) ∧
        (t.console.inByte = s.console.inByte ∨ (s.launch.conInZeroOnRead = true ∧ t.console.inByte = 0x00)))

/-- The disk worker completes the pending command with the latched head and track and reports Ok, where DISK_FAIL
reports no failure and the sector is in the geometry (45_disk.md R349 to R352); a command pending at `halt()` is
performed too, and the worker is stopped after it (R348; the worker state between is entry 12's). -/
def Obligations.DiskWorkerCompletes : Prop :=
  ∀ s : State, Moves .disk s → NextAnswer s.diskFail false → s.disk.workerState ≠ .stopped →
    (∀ h t, s.disk.pending = some (.seek h t) → ∃ u, step s = .next u ∧
      u.disk = { s.disk with
        latchHead := h, latchTrack := t, pending := none, done := some .ok, workerState := workerAfter s.disk } ∧
      Asked s.diskFail u.diskFail ∧ DiskWorkerKeeps s u) ∧
    (∀ k, s.disk.pending = some (.read k) → InGeometry s.disk s.disk.latchHead s.disk.latchTrack k →
      ∃ u, step s = .next u ∧
        u.disk = { s.disk with
          buffer := u.disk.buffer, pending := none, done := some .ok, workerState := workerAfter s.disk } ∧
        (∀ (j : Nat) (hj : j < 128), u.disk.buffer[j] =
          readCell s.disk.image (sectorOffset s.disk s.disk.latchHead s.disk.latchTrack k + j)) ∧
        Asked s.diskFail u.diskFail ∧ DiskWorkerKeeps s u) ∧
    (∀ k, s.disk.pending = some (.write k) → InGeometry s.disk s.disk.latchHead s.disk.latchTrack k →
      ∃ u, step s = .next u ∧
        u.disk = { s.disk with
          image := u.disk.image, pending := none, done := some .ok, workerState := workerAfter s.disk } ∧
        (∀ (j : Nat) (hj : j < 128),
          readCell u.disk.image (sectorOffset s.disk s.disk.latchHead s.disk.latchTrack k + j) = s.disk.buffer[j]) ∧
        (∀ x : Nat, (x < sectorOffset s.disk s.disk.latchHead s.disk.latchTrack k ∨
            sectorOffset s.disk s.disk.latchHead s.disk.latchTrack k + 128 ≤ x) →
          readCell u.disk.image x = readCell s.disk.image x) ∧
        Asked s.diskFail u.diskFail ∧ DiskWorkerKeeps s u)

/-- Where DISK_FAIL says the command fails, the worker reports its failure; besides the completion itself, only the
latch (Seek), the buffer (Read) or the target sector (Write) may change, to values the spec leaves open (45_disk.md
R353; entry 10; the worker state after it is entry 12's). -/
def Obligations.DiskFailuresAreReported : Prop :=
  ∀ s : State, Moves .disk s → NextAnswer s.diskFail true → s.disk.workerState ≠ .stopped →
    (∀ h t, s.disk.pending = some (.seek h t) → ∃ u, step s = .next u ∧
      u.disk = { s.disk with
        latchHead := u.disk.latchHead, latchTrack := u.disk.latchTrack, pending := none, done := some .seekFail,
        workerState := workerAfter s.disk } ∧
      Asked s.diskFail u.diskFail ∧ DiskWorkerKeeps s u) ∧
    (∀ k, s.disk.pending = some (.read k) → ∃ u, step s = .next u ∧
      u.disk = { s.disk with
        buffer := u.disk.buffer, pending := none, done := some .readFail, workerState := workerAfter s.disk } ∧
      Asked s.diskFail u.diskFail ∧ DiskWorkerKeeps s u) ∧
    (∀ k, s.disk.pending = some (.write k) → ∃ u, step s = .next u ∧
      u.disk = { s.disk with
        image := u.disk.image, pending := none, done := some .writeFail, workerState := workerAfter s.disk } ∧
      (∀ x : Nat, (x < sectorOffset s.disk s.disk.latchHead s.disk.latchTrack k ∨
          sectorOffset s.disk s.disk.latchHead s.disk.latchTrack k + 128 ≤ x) →
        readCell u.disk.image x = readCell s.disk.image x) ∧
      Asked s.diskFail u.diskFail ∧ DiskWorkerKeeps s u)

/-- No worker step reads or writes the CPU's registers or memory, whatever the worker does (44_console.md R314,
20_memory.md R93): it leaves them as they were, and its effect on the devices is the same with any others. -/
def Obligations.WorkersLeaveTheCpuAlone : Prop :=
  ∀ (s t : State) (who : Agent), who ≠ .cpu → Moves who s → step s = .next t →
    t.main = s.main ∧ t.alt = s.alt ∧ t.ix = s.ix ∧ t.iy = s.iy ∧ t.sp = s.sp ∧ t.pc = s.pc ∧ t.mem = s.mem ∧
      ∀ (main alt : Bank) (ix iy sp pc : Word) (mem : Store),
        step { s with main := main, alt := alt, ix := ix, iy := iy, sp := sp, pc := pc, mem := mem } =
          .next { t with main := main, alt := alt, ix := ix, iy := iy, sp := sp, pc := pc, mem := mem }

/-- The disk's `halt()`: a command already pending is still completed, and a command dispatched after it never is
(45_disk.md R348). That the worker is `stopping` until then is the model's own representation (entry 12). -/
def Obligations.DiskHaltStopsTheWorker : Prop :=
  (∀ s : State, s.disk.pending = none → (hostStep s .diskHalt).disk = { s.disk with workerState := .stopped }) ∧
  (∀ s : State, s.disk.pending ≠ none → s.disk.workerState = .running →
    (hostStep s .diskHalt).disk = { s.disk with workerState := .stopping }) ∧
  (∀ s : State, Moves .disk s → s.disk.pending ≠ none → s.disk.workerState = .stopping →
    ∃ t, step s = .next t ∧ t.disk.pending = none ∧ t.disk.done ≠ none ∧ t.disk.workerState = .stopped) ∧
  (∀ s t : State, s.disk.workerState = .stopped → step s = .next t →
    t.disk.workerState = .stopped ∧ (s.disk.pending ≠ none → s.disk.done = none → s.disk.status = .busy →
      t.disk.pending = s.disk.pending ∧ t.disk.done = none ∧ t.disk.status = .busy))

/-! ### Invariants and runs -/

/-- The invariant holds at reset. -/
def Obligations.ResetMeetsInvariant : Prop := Inv State.reset

/-- Every step keeps the invariant, whoever moves: memory and image in canonical form, at most one output byte in
flight (44_console.md R301), at most one disk command in flight and only while Busy (45_disk.md R332), OpError never
shown (R357). -/
def Obligations.StepKeepsInvariant : Prop := ∀ s t : State, Inv s → step s = .next t → Inv t

/-- A pending output byte is eventually written: on every run fair to the output worker, with no console failure, the
byte in flight is appended to OUTPUT at some later step (44_console.md R313). -/
def Obligations.PendingOutputIsWritten : Prop :=
  ∀ (σ : Nat → State) (n : Nat) (v : Byte), IsRun σ → WeaklyFair .consoleOutput σ →
    ConsoleInv (σ n).console → NeverFails (σ n).conFail → (σ n).console.outPending = some v →
    ∃ m, n ≤ m ∧ (σ (m + 1)).console.output = (σ n).console.output ++ [v] ∧
      (σ (m + 1)).console.outPending = none ∧ (σ (m + 1)).console.outReady = true

end
end

