-- ==== Sys2Proof/Laws/Decode.lean ====
section
/-! SUPPORT. The laws of the encoding's fields: a register's or pair's field reads back as that register or pair, and
the fields of an opcode byte built from fields are those fields. -/

namespace Sys2Proof.Laws

@[simp] theorem reg8OfField_fieldOfReg8 (r : Reg8) : reg8OfField (fieldOfReg8 r) = some r := by cases r <;> rfl

/-- A field that names a register is that register's field. -/
theorem fieldOfReg8_reg8OfField {v : BitVec 3} {r : Reg8} (h : reg8OfField v = some r) : fieldOfReg8 r = v := by
  revert v r; decide

/-- The one field that names no register is 6. -/
theorem reg8OfField_eq_none {v : BitVec 3} : reg8OfField v = none ↔ v = 6 := by revert v; decide

@[simp] theorem pairOfField_fieldOfPair (p : Pair) : pairOfField (fieldOfPair p) = p := by cases p <;> rfl

@[simp] theorem fieldOfPair_pairOfField (v : BitVec 2) : fieldOfPair (pairOfField v) = v := by revert v; decide

@[simp] theorem opX_opcodeXYZ (x : BitVec 2) (y z : BitVec 3) : opX (opcodeXYZ x y z) = x := by
  revert x y z; decide

@[simp] theorem opY_opcodeXYZ (x : BitVec 2) (y z : BitVec 3) : opY (opcodeXYZ x y z) = y := by
  revert x y z; decide

@[simp] theorem opZ_opcodeXYZ (x : BitVec 2) (y z : BitVec 3) : opZ (opcodeXYZ x y z) = z := by
  revert x y z; decide

@[simp] theorem opX_opcodeXPQZ (x p : BitVec 2) (q : BitVec 1) (z : BitVec 3) : opX (opcodeXPQZ x p q z) = x := by
  revert x p q z; decide

@[simp] theorem opP_opcodeXPQZ (x p : BitVec 2) (q : BitVec 1) (z : BitVec 3) : opP (opcodeXPQZ x p q z) = p := by
  revert x p q z; decide

@[simp] theorem opQ_opcodeXPQZ (x p : BitVec 2) (q : BitVec 1) (z : BitVec 3) : opQ (opcodeXPQZ x p q z) = q := by
  revert x p q z; decide

@[simp] theorem opZ_opcodeXPQZ (x p : BitVec 2) (q : BitVec 1) (z : BitVec 3) : opZ (opcodeXPQZ x p q z) = z := by
  revert x p q z; decide

set_option maxRecDepth 8000 in
/-- Every byte is the opcode byte of its own fields x, y, z. -/
theorem opcodeXYZ_fields (op : Byte) : opcodeXYZ (opX op) (opY op) (opZ op) = op := by
  revert op; decide

set_option maxRecDepth 8000 in
/-- Every byte is the opcode byte of its own fields x, p, q, z. -/
theorem opcodeXPQZ_fields (op : Byte) : opcodeXPQZ (opX op) (opP op) (opQ op) (opZ op) = op := by
  revert op; decide

/-! ### The helpers of the decoder -/

/-- What an instruction with one immediate byte decodes to. -/
theorem decodeImm8_ok {k : Byte → Instr} {bytes rest : List Byte} {i : Instr}
    (h : decodeImm8 k bytes = .ok (i, rest)) : ∃ n, bytes = n :: rest ∧ i = k n := by
  cases bytes with
  | nil => cases h
  | cons n tail => cases h; exact ⟨n, rfl, rfl⟩

/-- What an instruction with a 16-bit immediate decodes to. -/
theorem decodeImm16_ok {k : Word → Instr} {bytes rest : List Byte} {i : Instr}
    (h : decodeImm16 k bytes = .ok (i, rest)) :
    ∃ lo hi, bytes = lo :: hi :: rest ∧ i = k (joinBytes hi lo) := by
  match bytes, h with
  | lo :: hi :: tail, h => cases h; exact ⟨lo, hi, rfl, rfl⟩

/-! ### The pages of the decoder: what each opcode byte goes to -/

/-- A first byte goes to the page of its field x. -/
theorem decode_cons (op : Byte) (rest : List Byte) :
    (opX op = 0 ∧ decode (op :: rest) = decodeX0 op rest) ∨ (opX op = 1 ∧ decode (op :: rest) = decodeX1 op rest) ∨
      (opX op = 2 ∧ decode (op :: rest) = decodeX2 op rest) ∨
        (opX op = 3 ∧ decode (op :: rest) = decodeX3 op rest) := by
  have key : ∀ x : BitVec 2, x = 0 ∨ x = 1 ∨ x = 2 ∨ x = 3 := by decide
  rcases key (opX op) with h | h | h | h
  · exact .inl ⟨h, by simp only [decode, h]; rfl⟩
  · exact .inr (.inl ⟨h, by simp only [decode, h]; rfl⟩)
  · exact .inr (.inr (.inl ⟨h, by simp only [decode, h]; rfl⟩))
  · exact .inr (.inr (.inr ⟨h, by simp only [decode, h]; rfl⟩))

/-- Where each opcode byte of the page x = 0 goes. -/
theorem decodeX0_cases (op : Byte) (rest : List Byte) :
    (op = 0x00 ∧ decodeX0 op rest = .ok (.nop, rest)) ∨ (op = 0x08 ∧ decodeX0 op rest = .ok (.exAfAf, rest)) ∨
      (op = 0x18 ∧ decodeX0 op rest = decodeImm8 .jrE rest) ∨
      (op = 0x20 ∧ decodeX0 op rest = decodeImm8 .jrNzE rest) ∨
      (op = 0x28 ∧ decodeX0 op rest = decodeImm8 .jrZE rest) ∨
      (op = 0x36 ∧ decodeX0 op rest = decodeImm8 .ldHlN rest) ∨
      (op = 0x3E ∧ decodeX0 op rest = decodeImm8 .ldAN rest) ∨
      (op ≠ 0x36 ∧ op ≠ 0x3E ∧ opZ op = 6 ∧ ∀ r, reg8OfField (opY op) = some r →
        decodeX0 op rest = decodeImm8 (.ldRN r) rest) ∨
      (opZ op = 1 ∧ opQ op = 0 ∧ decodeX0 op rest = decodeImm16 (.ldDdNn (pairOfField (opP op))) rest) ∨
      (opZ op = 1 ∧ opQ op = 1 ∧ decodeX0 op rest = .ok (.addHlSs (pairOfField (opP op)), rest)) ∨
      (op ≠ 0x00 ∧ op ≠ 0x08 ∧ op ≠ 0x18 ∧ op ≠ 0x20 ∧ op ≠ 0x28 ∧ opZ op ≠ 6 ∧ opZ op ≠ 1 ∧
        decodeX0 op rest = .error (.illegal [op])) := by
  unfold decodeX0
  by_cases h1 : op = 0x00
  · exact .inl ⟨h1, if_pos h1⟩
  by_cases h2 : op = 0x08
  · exact .inr (.inl ⟨h2, by rw [if_neg h1, if_pos h2]⟩)
  by_cases h3 : op = 0x18
  · exact .inr (.inr (.inl ⟨h3, by rw [if_neg h1, if_neg h2, if_pos h3]⟩))
  by_cases h4 : op = 0x20
  · exact .inr (.inr (.inr (.inl ⟨h4, by rw [if_neg h1, if_neg h2, if_neg h3, if_pos h4]⟩)))
  by_cases h5 : op = 0x28
  · exact .inr (.inr (.inr (.inr (.inl ⟨h5, by rw [if_neg h1, if_neg h2, if_neg h3, if_neg h4, if_pos h5]⟩))))
  rw [if_neg h1, if_neg h2, if_neg h3, if_neg h4, if_neg h5]
  refine .inr (.inr (.inr (.inr (.inr ?_))))
  by_cases h6 : op = 0x36
  · exact .inl ⟨h6, if_pos h6⟩
  by_cases h7 : op = 0x3E
  · exact .inr (.inl ⟨h7, by rw [if_neg h6, if_pos h7]⟩)
  rw [if_neg h6, if_neg h7]
  refine .inr (.inr ?_)
  by_cases h8 : opZ op = 6
  · exact .inl ⟨h6, h7, h8, fun r hr => by rw [if_pos h8, hr]⟩
  rw [if_neg h8]
  refine .inr ?_
  by_cases h9 : opZ op = 1
  · rw [if_pos h9]
    by_cases hq : opQ op = 0
    · exact .inl ⟨h9, hq, if_pos hq⟩
    · have key : ∀ q : BitVec 1, q ≠ 0 → q = 1 := by decide
      exact .inr (.inl ⟨h9, key _ hq, if_neg hq⟩)
  · exact .inr (.inr ⟨h1, h2, h3, h4, h5, h8, h9, if_neg h9⟩)

/-- Where each opcode byte of the page x = 2 goes. -/
theorem decodeX2_cases (op : Byte) (rest : List Byte) :
    (opY op = 0 ∧ ∃ i, decodeX2 op rest = .ok (i, rest) ∧
        ((∃ r, reg8OfField (opZ op) = some r ∧ i = .addAR r) ∨ opZ op = 6 ∧ i = .addAHl)) ∨
      (opY op = 1 ∧ ∃ i, decodeX2 op rest = .ok (i, rest) ∧
        ((∃ r, reg8OfField (opZ op) = some r ∧ i = .adcAR r) ∨ opZ op = 6 ∧ i = .adcAHl)) ∨
      (opY op = 4 ∧ ∃ i, decodeX2 op rest = .ok (i, rest) ∧
        ((∃ r, reg8OfField (opZ op) = some r ∧ i = .andR r) ∨ opZ op = 6 ∧ i = .andHl)) ∨
      (opY op ≠ 0 ∧ opY op ≠ 1 ∧ opY op ≠ 4 ∧ decodeX2 op rest = .error (.illegal [op])) := by
  unfold decodeX2
  by_cases h1 : opY op = 0
  · refine .inl ⟨h1, ?_⟩
    rw [if_pos h1]
    cases hz : reg8OfField (opZ op) with
    | some r => exact ⟨_, rfl, .inl ⟨r, rfl, rfl⟩⟩
    | none => exact ⟨_, rfl, .inr ⟨reg8OfField_eq_none.1 hz, rfl⟩⟩
  by_cases h2 : opY op = 1
  · refine .inr (.inl ⟨h2, ?_⟩)
    rw [if_neg h1, if_pos h2]
    cases hz : reg8OfField (opZ op) with
    | some r => exact ⟨_, rfl, .inl ⟨r, rfl, rfl⟩⟩
    | none => exact ⟨_, rfl, .inr ⟨reg8OfField_eq_none.1 hz, rfl⟩⟩
  by_cases h3 : opY op = 4
  · refine .inr (.inr (.inl ⟨h3, ?_⟩))
    rw [if_neg h1, if_neg h2, if_pos h3]
    cases hz : reg8OfField (opZ op) with
    | some r => exact ⟨_, rfl, .inl ⟨r, rfl, rfl⟩⟩
    | none => exact ⟨_, rfl, .inr ⟨reg8OfField_eq_none.1 hz, rfl⟩⟩
  · exact .inr (.inr (.inr ⟨h1, h2, h3, by rw [if_neg h1, if_neg h2, if_neg h3]⟩))

/-- Where each opcode byte of the page x = 3 goes. -/
theorem decodeX3_cases (op : Byte) (rest : List Byte) :
    (op = 0xC3 ∧ decodeX3 op rest = decodeImm16 .jpNn rest) ∨ (op = 0xCB ∧ decodeX3 op rest = decodeCB rest) ∨
      (op = 0xD3 ∧ decodeX3 op rest = decodeImm8 .outNA rest) ∨ (op = 0xD9 ∧ decodeX3 op rest = .ok (.exx, rest)) ∨
      (op = 0xDB ∧ decodeX3 op rest = decodeImm8 .inAN rest) ∨ (op = 0xDD ∧ decodeX3 op rest = decodeDD rest) ∨
      (op = 0xEB ∧ decodeX3 op rest = .ok (.exDeHl, rest)) ∨ (op = 0xED ∧ decodeX3 op rest = decodeED rest) ∨
      (op = 0xFD ∧ decodeX3 op rest = decodeFD rest) ∨ (op = 0xFE ∧ decodeX3 op rest = decodeImm8 .cpN rest) ∨
      (op ≠ 0xC3 ∧ op ≠ 0xCB ∧ op ≠ 0xD3 ∧ op ≠ 0xD9 ∧ op ≠ 0xDB ∧ op ≠ 0xDD ∧ op ≠ 0xEB ∧ op ≠ 0xED ∧
        op ≠ 0xFD ∧ op ≠ 0xFE ∧ decodeX3 op rest = .error (.illegal [op])) := by
  unfold decodeX3
  by_cases h1 : op = 0xC3
  · exact .inl ⟨h1, if_pos h1⟩
  by_cases h2 : op = 0xCB
  · exact .inr (.inl ⟨h2, by rw [if_neg h1, if_pos h2]⟩)
  by_cases h3 : op = 0xD3
  · exact .inr (.inr (.inl ⟨h3, by rw [if_neg h1, if_neg h2, if_pos h3]⟩))
  rw [if_neg h1, if_neg h2, if_neg h3]
  refine .inr (.inr (.inr ?_))
  by_cases h4 : op = 0xD9
  · exact .inl ⟨h4, if_pos h4⟩
  by_cases h5 : op = 0xDB
  · exact .inr (.inl ⟨h5, by rw [if_neg h4, if_pos h5]⟩)
  by_cases h6 : op = 0xDD
  · exact .inr (.inr (.inl ⟨h6, by rw [if_neg h4, if_neg h5, if_pos h6]⟩))
  rw [if_neg h4, if_neg h5, if_neg h6]
  refine .inr (.inr (.inr ?_))
  by_cases h7 : op = 0xEB
  · exact .inl ⟨h7, if_pos h7⟩
  by_cases h8 : op = 0xED
  · exact .inr (.inl ⟨h8, by rw [if_neg h7, if_pos h8]⟩)
  by_cases h9 : op = 0xFD
  · exact .inr (.inr (.inl ⟨h9, by rw [if_neg h7, if_neg h8, if_pos h9]⟩))
  by_cases h10 : op = 0xFE
  · exact .inr (.inr (.inr (.inl ⟨h10, by rw [if_neg h7, if_neg h8, if_neg h9, if_pos h10]⟩)))
  · exact .inr (.inr (.inr (.inr ⟨h1, h2, h3, h4, h5, h6, h7, h8, h9, h10, by
      rw [if_neg h7, if_neg h8, if_neg h9, if_neg h10]⟩)))

end Sys2Proof.Laws
end

