-- ==== Sys2Proof/Laws/Memory.lean ====
section
/-! SUPPORT. The laws of the byte store: a read after a write to the same address gives the byte written, a write
leaves every other address alone, and every operation keeps the canonical form. -/

namespace Sys2Proof.Laws

open Sys2Proof.Machine

theorem readCell_filter_ne (m : Store) {a x : Nat} (h : x ≠ a) :
    readCell (m.filter fun c => c.1 ≠ a) x = readCell m x := by
  induction m with
  | nil => rfl
  | cons c rest ih =>
    obtain ⟨b, v⟩ := c
    by_cases hb : b = a
    · subst hb
      have : b ≠ x := fun hx => h hx.symm
      simpa [readCell, this] using ih
    · simp only [ne_eq, decide_not, List.filter_cons, hb, decide_false, Bool.not_false, if_true, readCell]
      simp only [ne_eq, decide_not] at ih
      rw [ih]

theorem readCell_filter_self (m : Store) (a : Nat) :
    readCell (m.filter fun c => c.1 ≠ a) a = unlistedByte := by
  induction m with
  | nil => rfl
  | cons c rest ih =>
    obtain ⟨b, v⟩ := c
    by_cases hb : b = a
    · simpa [hb] using ih
    · simp only [ne_eq, decide_not, List.filter_cons, hb, decide_false, Bool.not_false, if_true, readCell,
        if_false]
      simpa using ih

theorem readCell_insertCell_ne (m : Store) {a x : Nat} (v : Byte) (h : x ≠ a) :
    readCell (insertCell m a v) x = readCell m x := by
  induction m with
  | nil => simp [insertCell, readCell, Ne.symm h]
  | cons c rest ih =>
    obtain ⟨b, w⟩ := c
    unfold insertCell
    split
    · simp [readCell, Ne.symm h]
    · simp [readCell, ih]

theorem readCell_insertCell_self (m : Store) (a : Nat) (v : Byte) (h : ∀ c ∈ m, c.1 ≠ a) :
    readCell (insertCell m a v) a = v := by
  induction m with
  | nil => simp [insertCell, readCell]
  | cons c rest ih =>
    obtain ⟨b, w⟩ := c
    unfold insertCell
    split
    · simp [readCell]
    · have hb : b ≠ a := h (b, w) (List.mem_cons_self ..)
      simp only [readCell, hb, if_false]
      exact ih fun c hc => h c (List.mem_cons_of_mem _ hc)

/-- A read after a write to the same address gives the byte written. -/
@[simp] theorem readCell_writeCell_self (m : Store) (a : Nat) (v : Byte) : readCell (writeCell m a v) a = v := by
  unfold writeCell
  by_cases h : v = unlistedByte
  · simp only [h, if_true]
    exact readCell_filter_self m a
  · simp only [h, if_false]
    exact readCell_insertCell_self _ a v fun c hc => by simpa using (List.mem_filter.1 hc).2

/-- A write leaves every other address alone. -/
theorem readCell_writeCell_ne (m : Store) {a x : Nat} (v : Byte) (h : x ≠ a) :
    readCell (writeCell m a v) x = readCell m x := by
  unfold writeCell
  by_cases hv : v = unlistedByte
  · simp only [hv, if_true]
    exact readCell_filter_ne m h
  · simp only [hv, if_false]
    rw [readCell_insertCell_ne _ v h]
    exact readCell_filter_ne m h

/-- `MemRead` after `MemWrite` at the same address. -/
@[simp] theorem memRead_memWrite_self (m : Store) (a : Word) (v : Byte) : memRead (memWrite m a v) a = v :=
  readCell_writeCell_self m a.toNat v

/-- `MemRead` after `MemWrite` at another address. -/
theorem memRead_memWrite_ne (m : Store) {a x : Word} (v : Byte) (h : x ≠ a) :
    memRead (memWrite m a v) x = memRead m x :=
  readCell_writeCell_ne m v fun hx => h (BitVec.eq_of_toNat_eq hx)

/-! ### The canonical form -/

theorem storeWf_mono {bound lo lo' : Nat} {m : Store} (h : storeWf bound lo m = true) (hl : lo' ≤ lo) :
    storeWf bound lo' m = true := by
  cases m with
  | nil => rfl
  | cons c rest =>
    obtain ⟨b, w⟩ := c
    simp only [storeWf, Bool.and_eq_true, decide_eq_true_eq] at h ⊢
    exact ⟨⟨⟨by omega, h.1.1.2⟩, h.1.2⟩, h.2⟩

theorem storeWf_filter {bound lo : Nat} {m : Store} (h : storeWf bound lo m = true) (p : Host.Cell → Bool) :
    storeWf bound lo (m.filter p) = true := by
  induction m generalizing lo with
  | nil => rfl
  | cons c rest ih =>
    obtain ⟨b, w⟩ := c
    simp only [storeWf, Bool.and_eq_true, decide_eq_true_eq] at h
    have hrest := ih h.2
    rw [List.filter_cons]
    split
    · simp only [storeWf, Bool.and_eq_true, decide_eq_true_eq]
      exact ⟨h.1, hrest⟩
    · exact storeWf_mono hrest (by omega)

theorem storeWf_insertCell {bound lo a : Nat} {v : Byte} {m : Store} (h : storeWf bound lo m = true)
    (ha : ∀ c ∈ m, c.1 ≠ a) (hlo : lo ≤ a) (hb : a < bound) (hv : v ≠ unlistedByte) :
    storeWf bound lo (insertCell m a v) = true := by
  induction m generalizing lo with
  | nil => simp [insertCell, storeWf, hlo, hb, hv]
  | cons c rest ih =>
    obtain ⟨b, w⟩ := c
    simp only [storeWf, Bool.and_eq_true, decide_eq_true_eq] at h
    have hba : b ≠ a := ha (b, w) (List.mem_cons_self ..)
    unfold insertCell
    split
    · simp only [storeWf, Bool.and_eq_true, decide_eq_true_eq]
      exact ⟨⟨⟨hlo, hb⟩, hv⟩, ⟨⟨by omega, h.1.1.2⟩, h.1.2⟩, h.2⟩
    · simp only [storeWf, Bool.and_eq_true, decide_eq_true_eq]
      exact ⟨h.1, ih h.2 (fun c hc => ha c (List.mem_cons_of_mem _ hc)) (by omega)⟩

/-- A write inside the bound keeps the canonical form. -/
theorem storeWf_writeCell {bound lo a : Nat} {m : Store} (v : Byte) (h : storeWf bound lo m = true)
    (hlo : lo ≤ a) (hb : a < bound) : storeWf bound lo (writeCell m a v) = true := by
  unfold writeCell
  by_cases hv : v = unlistedByte
  · simp only [hv, if_true]
    exact storeWf_filter h _
  · simp only [hv, if_false]
    exact storeWf_insertCell (storeWf_filter h _) (fun c hc => by simpa using (List.mem_filter.1 hc).2) hlo hb hv

/-- Writes inside the bound keep the canonical form. -/
theorem storeWf_writeCells {bound a : Nat} {m : Store} (vs : List Byte) (h : storeWf bound 0 m = true)
    (hb : a + vs.length ≤ bound) : storeWf bound 0 (writeCells m a vs) = true := by
  induction vs generalizing m a with
  | nil => exact h
  | cons v vs ih =>
    simp only [List.length_cons] at hb
    exact ih (storeWf_writeCell v h (Nat.zero_le _) (by omega)) (by omega)

/-- `MemWrite` keeps the memory's canonical form. -/
theorem memory_wf_memWrite {m : Store} (h : Memory.wf m = true) (a : Word) (v : Byte) :
    Memory.wf (memWrite m a v) = true :=
  storeWf_writeCell v h (Nat.zero_le _) a.isLt

/-- `install` keeps the memory's canonical form. -/
theorem memory_wf_memInstall {m : Store} (h : Memory.wf m = true) (a : Word) (vs : List Byte) :
    Memory.wf (memInstall m a vs) = true := by
  induction vs generalizing m a with
  | nil => exact h
  | cons v vs ih => exact ih (memory_wf_memWrite h a v) (a + 1)

/-- The memory of the reset state is in canonical form. -/
theorem memory_wf_reset : Memory.wf State.reset.mem = true := rfl

/-! ### Sequences of bytes -/

/-- `install` leaves an address alone that is none of those it writes. -/
theorem memRead_memInstall_outside (m : Store) (a x : Word) (vs : List Byte)
    (h : ∀ k < vs.length, x ≠ a + BitVec.ofNat 16 k) : memRead (memInstall m a vs) x = memRead m x := by
  induction vs generalizing m a with
  | nil => rfl
  | cons v vs ih =>
    have h0 : x ≠ a := by simpa using h 0 (by simp)
    rw [memInstall, ih, memRead_memWrite_ne _ _ h0]
    intro k hk
    have := h (k + 1) (by simpa using hk)
    rwa [show a + 1 + BitVec.ofNat 16 k = a + BitVec.ofNat 16 (k + 1) by
      rw [BitVec.ofNat_add, BitVec.add_assoc, BitVec.add_comm 1]; rfl]

/-- `writeCells` leaves an address alone that is none of those it writes. -/
theorem readCell_writeCells_outside (m : Store) (a x : Nat) (vs : List Byte)
    (h : x < a ∨ a + vs.length ≤ x) : readCell (writeCells m a vs) x = readCell m x := by
  induction vs generalizing m a with
  | nil => rfl
  | cons v vs ih =>
    simp only [List.length_cons] at h
    rw [writeCells, ih _ _ (by omega), readCell_writeCell_ne _ _ (by omega)]

/-- `writeCells` stores its bytes in order. -/
theorem readCell_writeCells_inside (m : Store) (a : Nat) (vs : List Byte) (k : Nat) (hk : k < vs.length) :
    readCell (writeCells m a vs) (a + k) = vs[k] := by
  induction vs generalizing m a k with
  | nil => simp at hk
  | cons v vs ih =>
    cases k with
    | zero => rw [writeCells, readCell_writeCells_outside _ _ _ _ (by omega)]; simp
    | succ k =>
      have := ih (writeCell m a v) (a + 1) k (by simpa using hk)
      rw [writeCells, show a + (k + 1) = a + 1 + k by omega, this]
      simp

@[simp] theorem memBytes_length (m : Store) (a : Word) (len : Nat) : (memBytes m a len).length = len := by
  induction len generalizing a with
  | zero => rfl
  | succ len ih => simp [memBytes, ih]

/-- Bytes read in one go are bytes read in two. -/
theorem memBytes_append (m : Store) (a : Word) (k l : Nat) :
    memBytes m a (k + l) = memBytes m a k ++ memBytes m (a + BitVec.ofNat 16 k) l := by
  induction k generalizing a with
  | zero => simp [memBytes]
  | succ k ih =>
    rw [show k + 1 + l = (k + l) + 1 by omega]
    simp only [memBytes, ih, List.cons_append]
    rw [show a + 1 + BitVec.ofNat 16 k = a + BitVec.ofNat 16 (k + 1) by
      rw [BitVec.ofNat_add, BitVec.add_assoc, BitVec.add_comm 1]; rfl]

/-- Each byte of a run of bytes, by its address. -/
theorem memBytes_getElem (m : Store) (a : Word) (len k : Nat) (hk : k < len) :
    (memBytes m a len)[k]'(by simpa using hk) = memRead m (a + BitVec.ofNat 16 k) := by
  induction len generalizing a k with
  | zero => omega
  | succ len ih =>
    cases k with
    | zero => simp [memBytes]
    | succ k =>
      simp only [memBytes, List.getElem_cons_succ]
      rw [ih _ _ (by omega), BitVec.ofNat_add, BitVec.add_assoc, BitVec.add_comm 1]; rfl

end Sys2Proof.Laws
end

