-- ==== Sys2Proof/Laws/State.lean ====
section
/-! SUPPORT. One lemma per field per update of State, all true by rfl, and the register laws of one register set: a
read after a write. -/

namespace Sys2Proof.Laws

open Sys2Proof.Machine

/-! ### One register set -/

@[simp] theorem bank_get_set_self (k : Bank) (r : Reg8) (v : Byte) : (k.set r v).get r = v := by cases r <;> rfl

theorem bank_get_set_ne (k : Bank) {r q : Reg8} (v : Byte) (h : q ≠ r) : (k.set r v).get q = k.get q := by
  cases r <;> cases q <;> first | rfl | exact absurd rfl h

@[simp] theorem bank_set_f (k : Bank) (r : Reg8) (v : Byte) : (k.set r v).f = k.f := by cases r <;> rfl

@[simp] theorem bank_set_a (k : Bank) (v : Byte) : (k.set .a v).a = v := rfl

theorem joinBytes_hi_lo (w : Word) : joinBytes (hiByte w) (loByte w) = w := by
  unfold joinBytes hiByte loByte
  ext i hi
  simp only [BitVec.getElem_append, BitVec.getElem_extractLsb']
  split
  · simp [BitVec.getLsbD_eq_getElem hi]
  · rename_i h8
    simp [BitVec.getLsbD_eq_getElem hi, show 8 + (i - 8) = i by omega]

theorem hiByte_joinBytes (hi lo : Byte) : hiByte (joinBytes hi lo) = hi := by
  unfold joinBytes hiByte
  ext i h
  simp only [BitVec.getElem_extractLsb', BitVec.getLsbD_append]
  simp [show ¬ 8 + i < 8 by omega, BitVec.getLsbD_eq_getElem h]

theorem loByte_joinBytes (hi lo : Byte) : loByte (joinBytes hi lo) = lo := by
  unfold joinBytes loByte
  ext i h
  simp only [BitVec.getElem_extractLsb', BitVec.getLsbD_append]
  simp [h]

@[simp] theorem bank_bc_setBc (k : Bank) (w : Word) : (k.setBc w).bc = w := joinBytes_hi_lo w
@[simp] theorem bank_de_setDe (k : Bank) (w : Word) : (k.setDe w).de = w := joinBytes_hi_lo w
@[simp] theorem bank_hl_setHl (k : Bank) (w : Word) : (k.setHl w).hl = w := joinBytes_hi_lo w
@[simp] theorem bank_af_setAf (k : Bank) (w : Word) : (k.setAf w).af = w := joinBytes_hi_lo w

/-! ### State.advance -/

@[simp] theorem advance_main (s : State) (len : Nat) : (s.advance len).main = s.main := rfl
@[simp] theorem advance_alt (s : State) (len : Nat) : (s.advance len).alt = s.alt := rfl
@[simp] theorem advance_ix (s : State) (len : Nat) : (s.advance len).ix = s.ix := rfl
@[simp] theorem advance_iy (s : State) (len : Nat) : (s.advance len).iy = s.iy := rfl
@[simp] theorem advance_sp (s : State) (len : Nat) : (s.advance len).sp = s.sp := rfl
@[simp] theorem advance_pc (s : State) (len : Nat) : (s.advance len).pc = s.pc + BitVec.ofNat 16 len := rfl
@[simp] theorem advance_mem (s : State) (len : Nat) : (s.advance len).mem = s.mem := rfl
@[simp] theorem advance_console (s : State) (len : Nat) : (s.advance len).console = s.console := rfl
@[simp] theorem advance_disk (s : State) (len : Nat) : (s.advance len).disk = s.disk := rfl
@[simp] theorem advance_driver (s : State) (len : Nat) : (s.advance len).driver = s.driver := rfl
@[simp] theorem advance_launch (s : State) (len : Nat) : (s.advance len).launch = s.launch := rfl
@[simp] theorem advance_conFail (s : State) (len : Nat) : (s.advance len).conFail = s.conFail := rfl
@[simp] theorem advance_diskFail (s : State) (len : Nat) : (s.advance len).diskFail = s.diskFail := rfl
@[simp] theorem advance_schedule (s : State) (len : Nat) : (s.advance len).schedule = s.schedule := rfl
@[simp] theorem advance_tick (s : State) (len : Nat) : (s.advance len).tick = s.tick := rfl

/-! ### State.setPc -/

@[simp] theorem setPc_main (s : State) (w : Word) : (s.setPc w).main = s.main := rfl
@[simp] theorem setPc_alt (s : State) (w : Word) : (s.setPc w).alt = s.alt := rfl
@[simp] theorem setPc_ix (s : State) (w : Word) : (s.setPc w).ix = s.ix := rfl
@[simp] theorem setPc_iy (s : State) (w : Word) : (s.setPc w).iy = s.iy := rfl
@[simp] theorem setPc_sp (s : State) (w : Word) : (s.setPc w).sp = s.sp := rfl
@[simp] theorem setPc_pc (s : State) (w : Word) : (s.setPc w).pc = w := rfl
@[simp] theorem setPc_mem (s : State) (w : Word) : (s.setPc w).mem = s.mem := rfl
@[simp] theorem setPc_console (s : State) (w : Word) : (s.setPc w).console = s.console := rfl
@[simp] theorem setPc_disk (s : State) (w : Word) : (s.setPc w).disk = s.disk := rfl
@[simp] theorem setPc_driver (s : State) (w : Word) : (s.setPc w).driver = s.driver := rfl
@[simp] theorem setPc_launch (s : State) (w : Word) : (s.setPc w).launch = s.launch := rfl
@[simp] theorem setPc_conFail (s : State) (w : Word) : (s.setPc w).conFail = s.conFail := rfl
@[simp] theorem setPc_diskFail (s : State) (w : Word) : (s.setPc w).diskFail = s.diskFail := rfl
@[simp] theorem setPc_schedule (s : State) (w : Word) : (s.setPc w).schedule = s.schedule := rfl
@[simp] theorem setPc_tick (s : State) (w : Word) : (s.setPc w).tick = s.tick := rfl

/-! ### State.write8 -/

@[simp] theorem write8_main (s : State) (a : Word) (v : Byte) : (s.write8 a v).main = s.main := rfl
@[simp] theorem write8_alt (s : State) (a : Word) (v : Byte) : (s.write8 a v).alt = s.alt := rfl
@[simp] theorem write8_ix (s : State) (a : Word) (v : Byte) : (s.write8 a v).ix = s.ix := rfl
@[simp] theorem write8_iy (s : State) (a : Word) (v : Byte) : (s.write8 a v).iy = s.iy := rfl
@[simp] theorem write8_sp (s : State) (a : Word) (v : Byte) : (s.write8 a v).sp = s.sp := rfl
@[simp] theorem write8_pc (s : State) (a : Word) (v : Byte) : (s.write8 a v).pc = s.pc := rfl
@[simp] theorem write8_mem (s : State) (a : Word) (v : Byte) : (s.write8 a v).mem = memWrite s.mem a v := rfl
@[simp] theorem write8_console (s : State) (a : Word) (v : Byte) : (s.write8 a v).console = s.console := rfl
@[simp] theorem write8_disk (s : State) (a : Word) (v : Byte) : (s.write8 a v).disk = s.disk := rfl
@[simp] theorem write8_driver (s : State) (a : Word) (v : Byte) : (s.write8 a v).driver = s.driver := rfl
@[simp] theorem write8_launch (s : State) (a : Word) (v : Byte) : (s.write8 a v).launch = s.launch := rfl
@[simp] theorem write8_conFail (s : State) (a : Word) (v : Byte) : (s.write8 a v).conFail = s.conFail := rfl
@[simp] theorem write8_diskFail (s : State) (a : Word) (v : Byte) : (s.write8 a v).diskFail = s.diskFail := rfl
@[simp] theorem write8_schedule (s : State) (a : Word) (v : Byte) : (s.write8 a v).schedule = s.schedule := rfl
@[simp] theorem write8_tick (s : State) (a : Word) (v : Byte) : (s.write8 a v).tick = s.tick := rfl

/-! ### State.setR8 -/

@[simp] theorem setR8_main (s : State) (r : Reg8) (v : Byte) : (s.setR8 r v).main = s.main.set r v := rfl
@[simp] theorem setR8_alt (s : State) (r : Reg8) (v : Byte) : (s.setR8 r v).alt = s.alt := rfl
@[simp] theorem setR8_ix (s : State) (r : Reg8) (v : Byte) : (s.setR8 r v).ix = s.ix := rfl
@[simp] theorem setR8_iy (s : State) (r : Reg8) (v : Byte) : (s.setR8 r v).iy = s.iy := rfl
@[simp] theorem setR8_sp (s : State) (r : Reg8) (v : Byte) : (s.setR8 r v).sp = s.sp := rfl
@[simp] theorem setR8_pc (s : State) (r : Reg8) (v : Byte) : (s.setR8 r v).pc = s.pc := rfl
@[simp] theorem setR8_mem (s : State) (r : Reg8) (v : Byte) : (s.setR8 r v).mem = s.mem := rfl
@[simp] theorem setR8_console (s : State) (r : Reg8) (v : Byte) : (s.setR8 r v).console = s.console := rfl
@[simp] theorem setR8_disk (s : State) (r : Reg8) (v : Byte) : (s.setR8 r v).disk = s.disk := rfl
@[simp] theorem setR8_driver (s : State) (r : Reg8) (v : Byte) : (s.setR8 r v).driver = s.driver := rfl
@[simp] theorem setR8_launch (s : State) (r : Reg8) (v : Byte) : (s.setR8 r v).launch = s.launch := rfl
@[simp] theorem setR8_conFail (s : State) (r : Reg8) (v : Byte) : (s.setR8 r v).conFail = s.conFail := rfl
@[simp] theorem setR8_diskFail (s : State) (r : Reg8) (v : Byte) : (s.setR8 r v).diskFail = s.diskFail := rfl
@[simp] theorem setR8_schedule (s : State) (r : Reg8) (v : Byte) : (s.setR8 r v).schedule = s.schedule := rfl
@[simp] theorem setR8_tick (s : State) (r : Reg8) (v : Byte) : (s.setR8 r v).tick = s.tick := rfl

/-! ### State.setF -/

@[simp] theorem setF_main (s : State) (f : Byte) : (s.setF f).main = { s.main with f := f } := rfl
@[simp] theorem setF_alt (s : State) (f : Byte) : (s.setF f).alt = s.alt := rfl
@[simp] theorem setF_ix (s : State) (f : Byte) : (s.setF f).ix = s.ix := rfl
@[simp] theorem setF_iy (s : State) (f : Byte) : (s.setF f).iy = s.iy := rfl
@[simp] theorem setF_sp (s : State) (f : Byte) : (s.setF f).sp = s.sp := rfl
@[simp] theorem setF_pc (s : State) (f : Byte) : (s.setF f).pc = s.pc := rfl
@[simp] theorem setF_mem (s : State) (f : Byte) : (s.setF f).mem = s.mem := rfl
@[simp] theorem setF_console (s : State) (f : Byte) : (s.setF f).console = s.console := rfl
@[simp] theorem setF_disk (s : State) (f : Byte) : (s.setF f).disk = s.disk := rfl
@[simp] theorem setF_driver (s : State) (f : Byte) : (s.setF f).driver = s.driver := rfl
@[simp] theorem setF_launch (s : State) (f : Byte) : (s.setF f).launch = s.launch := rfl
@[simp] theorem setF_conFail (s : State) (f : Byte) : (s.setF f).conFail = s.conFail := rfl
@[simp] theorem setF_diskFail (s : State) (f : Byte) : (s.setF f).diskFail = s.diskFail := rfl
@[simp] theorem setF_schedule (s : State) (f : Byte) : (s.setF f).schedule = s.schedule := rfl
@[simp] theorem setF_tick (s : State) (f : Byte) : (s.setF f).tick = s.tick := rfl

/-! ### State.setAF -/

@[simp] theorem setAF_main (s : State) (r : Byte × Byte) : (s.setAF r).main = { s.main with a := r.1, f := r.2 } := rfl
@[simp] theorem setAF_alt (s : State) (r : Byte × Byte) : (s.setAF r).alt = s.alt := rfl
@[simp] theorem setAF_ix (s : State) (r : Byte × Byte) : (s.setAF r).ix = s.ix := rfl
@[simp] theorem setAF_iy (s : State) (r : Byte × Byte) : (s.setAF r).iy = s.iy := rfl
@[simp] theorem setAF_sp (s : State) (r : Byte × Byte) : (s.setAF r).sp = s.sp := rfl
@[simp] theorem setAF_pc (s : State) (r : Byte × Byte) : (s.setAF r).pc = s.pc := rfl
@[simp] theorem setAF_mem (s : State) (r : Byte × Byte) : (s.setAF r).mem = s.mem := rfl
@[simp] theorem setAF_console (s : State) (r : Byte × Byte) : (s.setAF r).console = s.console := rfl
@[simp] theorem setAF_disk (s : State) (r : Byte × Byte) : (s.setAF r).disk = s.disk := rfl
@[simp] theorem setAF_driver (s : State) (r : Byte × Byte) : (s.setAF r).driver = s.driver := rfl
@[simp] theorem setAF_launch (s : State) (r : Byte × Byte) : (s.setAF r).launch = s.launch := rfl
@[simp] theorem setAF_conFail (s : State) (r : Byte × Byte) : (s.setAF r).conFail = s.conFail := rfl
@[simp] theorem setAF_diskFail (s : State) (r : Byte × Byte) : (s.setAF r).diskFail = s.diskFail := rfl
@[simp] theorem setAF_schedule (s : State) (r : Byte × Byte) : (s.setAF r).schedule = s.schedule := rfl
@[simp] theorem setAF_tick (s : State) (r : Byte × Byte) : (s.setAF r).tick = s.tick := rfl

/-! ### State.setHlF -/

@[simp] theorem setHlF_main (s : State) (r : Word × Byte) : (s.setHlF r).main = { s.main.setHl r.1 with f := r.2 } := rfl
@[simp] theorem setHlF_alt (s : State) (r : Word × Byte) : (s.setHlF r).alt = s.alt := rfl
@[simp] theorem setHlF_ix (s : State) (r : Word × Byte) : (s.setHlF r).ix = s.ix := rfl
@[simp] theorem setHlF_iy (s : State) (r : Word × Byte) : (s.setHlF r).iy = s.iy := rfl
@[simp] theorem setHlF_sp (s : State) (r : Word × Byte) : (s.setHlF r).sp = s.sp := rfl
@[simp] theorem setHlF_pc (s : State) (r : Word × Byte) : (s.setHlF r).pc = s.pc := rfl
@[simp] theorem setHlF_mem (s : State) (r : Word × Byte) : (s.setHlF r).mem = s.mem := rfl
@[simp] theorem setHlF_console (s : State) (r : Word × Byte) : (s.setHlF r).console = s.console := rfl
@[simp] theorem setHlF_disk (s : State) (r : Word × Byte) : (s.setHlF r).disk = s.disk := rfl
@[simp] theorem setHlF_driver (s : State) (r : Word × Byte) : (s.setHlF r).driver = s.driver := rfl
@[simp] theorem setHlF_launch (s : State) (r : Word × Byte) : (s.setHlF r).launch = s.launch := rfl
@[simp] theorem setHlF_conFail (s : State) (r : Word × Byte) : (s.setHlF r).conFail = s.conFail := rfl
@[simp] theorem setHlF_diskFail (s : State) (r : Word × Byte) : (s.setHlF r).diskFail = s.diskFail := rfl
@[simp] theorem setHlF_schedule (s : State) (r : Word × Byte) : (s.setHlF r).schedule = s.schedule := rfl
@[simp] theorem setHlF_tick (s : State) (r : Word × Byte) : (s.setHlF r).tick = s.tick := rfl

/-! ### State.stop -/

@[simp] theorem stop_main (s : State) (r : StopReason) : (s.stop r).main = s.main := rfl
@[simp] theorem stop_alt (s : State) (r : StopReason) : (s.stop r).alt = s.alt := rfl
@[simp] theorem stop_ix (s : State) (r : StopReason) : (s.stop r).ix = s.ix := rfl
@[simp] theorem stop_iy (s : State) (r : StopReason) : (s.stop r).iy = s.iy := rfl
@[simp] theorem stop_sp (s : State) (r : StopReason) : (s.stop r).sp = s.sp := rfl
@[simp] theorem stop_pc (s : State) (r : StopReason) : (s.stop r).pc = s.pc := rfl
@[simp] theorem stop_mem (s : State) (r : StopReason) : (s.stop r).mem = s.mem := rfl
@[simp] theorem stop_console (s : State) (r : StopReason) : (s.stop r).console = s.console := rfl
@[simp] theorem stop_disk (s : State) (r : StopReason) : (s.stop r).disk = s.disk := rfl
@[simp] theorem stop_driver (s : State) (r : StopReason) : (s.stop r).driver = { s.driver with stopReason := some r } := rfl
@[simp] theorem stop_launch (s : State) (r : StopReason) : (s.stop r).launch = s.launch := rfl
@[simp] theorem stop_conFail (s : State) (r : StopReason) : (s.stop r).conFail = s.conFail := rfl
@[simp] theorem stop_diskFail (s : State) (r : StopReason) : (s.stop r).diskFail = s.diskFail := rfl
@[simp] theorem stop_schedule (s : State) (r : StopReason) : (s.stop r).schedule = s.schedule := rfl
@[simp] theorem stop_tick (s : State) (r : StopReason) : (s.stop r).tick = s.tick := rfl

/-! ### State.raise -/

@[simp] theorem raise_main (s : State) (f : Fault) : (s.raise f).main = s.main := rfl
@[simp] theorem raise_alt (s : State) (f : Fault) : (s.raise f).alt = s.alt := rfl
@[simp] theorem raise_ix (s : State) (f : Fault) : (s.raise f).ix = s.ix := rfl
@[simp] theorem raise_iy (s : State) (f : Fault) : (s.raise f).iy = s.iy := rfl
@[simp] theorem raise_sp (s : State) (f : Fault) : (s.raise f).sp = s.sp := rfl
@[simp] theorem raise_pc (s : State) (f : Fault) : (s.raise f).pc = s.pc := rfl
@[simp] theorem raise_mem (s : State) (f : Fault) : (s.raise f).mem = s.mem := rfl
@[simp] theorem raise_console (s : State) (f : Fault) : (s.raise f).console = s.console := rfl
@[simp] theorem raise_disk (s : State) (f : Fault) : (s.raise f).disk = s.disk := rfl
@[simp] theorem raise_driver (s : State) (f : Fault) : (s.raise f).driver = { s.driver with fault := s.driver.fault.or (some f) } := rfl
@[simp] theorem raise_launch (s : State) (f : Fault) : (s.raise f).launch = s.launch := rfl
@[simp] theorem raise_conFail (s : State) (f : Fault) : (s.raise f).conFail = s.conFail := rfl
@[simp] theorem raise_diskFail (s : State) (f : Fault) : (s.raise f).diskFail = s.diskFail := rfl
@[simp] theorem raise_schedule (s : State) (f : Fault) : (s.raise f).schedule = s.schedule := rfl
@[simp] theorem raise_tick (s : State) (f : Fault) : (s.raise f).tick = s.tick := rfl

/-! ### State.resume -/

@[simp] theorem resume_main (s : State) : (s.resume).main = s.main := rfl
@[simp] theorem resume_alt (s : State) : (s.resume).alt = s.alt := rfl
@[simp] theorem resume_ix (s : State) : (s.resume).ix = s.ix := rfl
@[simp] theorem resume_iy (s : State) : (s.resume).iy = s.iy := rfl
@[simp] theorem resume_sp (s : State) : (s.resume).sp = s.sp := rfl
@[simp] theorem resume_pc (s : State) : (s.resume).pc = s.pc := rfl
@[simp] theorem resume_mem (s : State) : (s.resume).mem = s.mem := rfl
@[simp] theorem resume_console (s : State) : (s.resume).console = s.console := rfl
@[simp] theorem resume_disk (s : State) : (s.resume).disk = s.disk := rfl
@[simp] theorem resume_driver (s : State) : (s.resume).driver = { s.driver with
      count := 0, budget := nextBudget s.driver s.tick, budgets := s.driver.budgets.tail } := rfl
@[simp] theorem resume_launch (s : State) : (s.resume).launch = s.launch := rfl
@[simp] theorem resume_conFail (s : State) : (s.resume).conFail = s.conFail := rfl
@[simp] theorem resume_diskFail (s : State) : (s.resume).diskFail = s.diskFail := rfl
@[simp] theorem resume_schedule (s : State) : (s.resume).schedule = s.schedule := rfl
@[simp] theorem resume_tick (s : State) : (s.resume).tick = s.tick := rfl

/-! ### State.endRun -/

@[simp] theorem endRun_main (s : State) : (s.endRun).main = s.main := rfl
@[simp] theorem endRun_alt (s : State) : (s.endRun).alt = s.alt := rfl
@[simp] theorem endRun_ix (s : State) : (s.endRun).ix = s.ix := rfl
@[simp] theorem endRun_iy (s : State) : (s.endRun).iy = s.iy := rfl
@[simp] theorem endRun_sp (s : State) : (s.endRun).sp = s.sp := rfl
@[simp] theorem endRun_pc (s : State) : (s.endRun).pc = s.pc := rfl
@[simp] theorem endRun_mem (s : State) : (s.endRun).mem = s.mem := rfl
@[simp] theorem endRun_console (s : State) : (s.endRun).console = s.console := rfl
@[simp] theorem endRun_disk (s : State) : (s.endRun).disk = s.disk := rfl
@[simp] theorem endRun_driver (s : State) : (s.endRun).driver = { s.driver with stopReason := some .halt, ended := true } := rfl
@[simp] theorem endRun_launch (s : State) : (s.endRun).launch = s.launch := rfl
@[simp] theorem endRun_conFail (s : State) : (s.endRun).conFail = s.conFail := rfl
@[simp] theorem endRun_diskFail (s : State) : (s.endRun).diskFail = s.diskFail := rfl
@[simp] theorem endRun_schedule (s : State) : (s.endRun).schedule = s.schedule := rfl
@[simp] theorem endRun_tick (s : State) : (s.endRun).tick = s.tick := rfl

/-! ### State.countInstr -/

@[simp] theorem countInstr_main (s : State) : (s.countInstr).main = s.main := rfl
@[simp] theorem countInstr_alt (s : State) : (s.countInstr).alt = s.alt := rfl
@[simp] theorem countInstr_ix (s : State) : (s.countInstr).ix = s.ix := rfl
@[simp] theorem countInstr_iy (s : State) : (s.countInstr).iy = s.iy := rfl
@[simp] theorem countInstr_sp (s : State) : (s.countInstr).sp = s.sp := rfl
@[simp] theorem countInstr_pc (s : State) : (s.countInstr).pc = s.pc := rfl
@[simp] theorem countInstr_mem (s : State) : (s.countInstr).mem = s.mem := rfl
@[simp] theorem countInstr_console (s : State) : (s.countInstr).console = s.console := rfl
@[simp] theorem countInstr_disk (s : State) : (s.countInstr).disk = s.disk := rfl
@[simp] theorem countInstr_driver (s : State) : (s.countInstr).driver = { s.driver with count := s.driver.count + 1 } := rfl
@[simp] theorem countInstr_launch (s : State) : (s.countInstr).launch = s.launch := rfl
@[simp] theorem countInstr_conFail (s : State) : (s.countInstr).conFail = s.conFail := rfl
@[simp] theorem countInstr_diskFail (s : State) : (s.countInstr).diskFail = s.diskFail := rfl
@[simp] theorem countInstr_schedule (s : State) : (s.countInstr).schedule = s.schedule := rfl
@[simp] theorem countInstr_tick (s : State) : (s.countInstr).tick = s.tick := rfl

/-! ### takeMove -/

@[simp] theorem takeMove_main (s : State) : (takeMove s).main = s.main := rfl
@[simp] theorem takeMove_alt (s : State) : (takeMove s).alt = s.alt := rfl
@[simp] theorem takeMove_ix (s : State) : (takeMove s).ix = s.ix := rfl
@[simp] theorem takeMove_iy (s : State) : (takeMove s).iy = s.iy := rfl
@[simp] theorem takeMove_sp (s : State) : (takeMove s).sp = s.sp := rfl
@[simp] theorem takeMove_pc (s : State) : (takeMove s).pc = s.pc := rfl
@[simp] theorem takeMove_mem (s : State) : (takeMove s).mem = s.mem := rfl
@[simp] theorem takeMove_console (s : State) : (takeMove s).console = s.console := rfl
@[simp] theorem takeMove_disk (s : State) : (takeMove s).disk = s.disk := rfl
@[simp] theorem takeMove_driver (s : State) : (takeMove s).driver = s.driver := rfl
@[simp] theorem takeMove_launch (s : State) : (takeMove s).launch = s.launch := rfl
@[simp] theorem takeMove_conFail (s : State) : (takeMove s).conFail = s.conFail := rfl
@[simp] theorem takeMove_diskFail (s : State) : (takeMove s).diskFail = s.diskFail := rfl
@[simp] theorem takeMove_schedule (s : State) : (takeMove s).schedule = s.schedule.tail := rfl
@[simp] theorem takeMove_tick (s : State) : (takeMove s).tick = s.tick + 1 := rfl

/-! ### State.resetCpu -/

@[simp] theorem resetCpu_main (s : State) : (s.resetCpu).main = Bank.zero := rfl
@[simp] theorem resetCpu_alt (s : State) : (s.resetCpu).alt = Bank.zero := rfl
@[simp] theorem resetCpu_ix (s : State) : (s.resetCpu).ix = 0 := rfl
@[simp] theorem resetCpu_iy (s : State) : (s.resetCpu).iy = 0 := rfl
@[simp] theorem resetCpu_sp (s : State) : (s.resetCpu).sp = 0 := rfl
@[simp] theorem resetCpu_pc (s : State) : (s.resetCpu).pc = 0 := rfl
@[simp] theorem resetCpu_mem (s : State) : (s.resetCpu).mem = s.mem := rfl
@[simp] theorem resetCpu_console (s : State) : (s.resetCpu).console = s.console := rfl
@[simp] theorem resetCpu_disk (s : State) : (s.resetCpu).disk = s.disk := rfl
@[simp] theorem resetCpu_driver (s : State) : (s.resetCpu).driver = s.driver := rfl
@[simp] theorem resetCpu_launch (s : State) : (s.resetCpu).launch = s.launch := rfl
@[simp] theorem resetCpu_conFail (s : State) : (s.resetCpu).conFail = s.conFail := rfl
@[simp] theorem resetCpu_diskFail (s : State) : (s.resetCpu).diskFail = s.diskFail := rfl
@[simp] theorem resetCpu_schedule (s : State) : (s.resetCpu).schedule = s.schedule := rfl
@[simp] theorem resetCpu_tick (s : State) : (s.resetCpu).tick = s.tick := rfl

/-! ### setPair -/

@[simp] theorem setPair_alt (s : State) (p : Pair) (w : Word) : (s.setPair p w).alt = s.alt := by cases p <;> rfl
@[simp] theorem setPair_ix (s : State) (p : Pair) (w : Word) : (s.setPair p w).ix = s.ix := by cases p <;> rfl
@[simp] theorem setPair_iy (s : State) (p : Pair) (w : Word) : (s.setPair p w).iy = s.iy := by cases p <;> rfl
@[simp] theorem setPair_pc (s : State) (p : Pair) (w : Word) : (s.setPair p w).pc = s.pc := by cases p <;> rfl
@[simp] theorem setPair_mem (s : State) (p : Pair) (w : Word) : (s.setPair p w).mem = s.mem := by cases p <;> rfl
@[simp] theorem setPair_console (s : State) (p : Pair) (w : Word) : (s.setPair p w).console = s.console := by cases p <;> rfl
@[simp] theorem setPair_disk (s : State) (p : Pair) (w : Word) : (s.setPair p w).disk = s.disk := by cases p <;> rfl
@[simp] theorem setPair_driver (s : State) (p : Pair) (w : Word) : (s.setPair p w).driver = s.driver := by cases p <;> rfl
@[simp] theorem setPair_launch (s : State) (p : Pair) (w : Word) : (s.setPair p w).launch = s.launch := by cases p <;> rfl
@[simp] theorem setPair_conFail (s : State) (p : Pair) (w : Word) : (s.setPair p w).conFail = s.conFail := by cases p <;> rfl
@[simp] theorem setPair_diskFail (s : State) (p : Pair) (w : Word) : (s.setPair p w).diskFail = s.diskFail := by cases p <;> rfl
@[simp] theorem setPair_schedule (s : State) (p : Pair) (w : Word) : (s.setPair p w).schedule = s.schedule := by cases p <;> rfl
@[simp] theorem setPair_tick (s : State) (p : Pair) (w : Word) : (s.setPair p w).tick = s.tick := by cases p <;> rfl

/-- The pair written reads as the word written. -/
@[simp] theorem getPair_setPair_self (s : State) (p : Pair) (w : Word) : (s.setPair p w).getPair p = w := by
  cases p
  · exact joinBytes_hi_lo w
  · exact joinBytes_hi_lo w
  · exact joinBytes_hi_lo w
  · rfl

@[simp] theorem setPair_main_f (s : State) (p : Pair) (w : Word) : (s.setPair p w).main.f = s.main.f := by
  cases p <;> rfl

end Sys2Proof.Laws
end

