-- ==== Sys2Proof/Laws/Devices.lean ====
section
/-! SUPPORT. What each operation of the port bus and each worker step can do, said once. -/

namespace Sys2Proof.Laws

open Sys2Proof.Machine

/-! ### The port bus -/

/-- A port read that succeeds leaves everything as it was but the console (port 3) or the disk (port 4). -/
theorem portIn_ok {n : Byte} {s : State} {r : Byte × State} (h : portIn n s = .ok r) :
    r.2 = s ∨ r.2 = { s with console := (consoleInChar s.launch.conInZeroOnRead s.console).2 } ∨
      r.2 = { s with disk := (diskStatusPoll s.disk).2 } := by
  unfold portIn at h
  split at h <;> cases h
  · exact .inl rfl
  · exact .inl rfl
  · exact .inr (.inl rfl)
  · exact .inr (.inr rfl)
  · exact .inl rfl
  · exact .inl rfl
  · exact .inl rfl

/-- A port read faults only as UnmappedPort. -/
theorem portIn_error {n : Byte} {s : State} {f : Fault} (h : portIn n s = .error f) : f = .unmappedPort .input n := by
  unfold portIn at h
  split at h <;> cases h
  rfl

/-- What a disk command can do: dispatch one of three commands, copy into the buffer, or copy into memory. -/
theorem diskCommand_ok {d : Disk} {v : Byte} {m : Store} {r : Disk × Store} (h : diskCommand d v m = .ok r) :
    (∃ c, r = (diskDispatch d c, m)) ∨ r = (diskCopyFromAddr d m, m) ∨ r = (d, diskCopyToAddr d m) := by
  unfold diskCommand at h
  split at h <;> cases h
  · exact .inl ⟨_, rfl⟩
  · exact .inl ⟨_, rfl⟩
  · exact .inl ⟨_, rfl⟩
  · exact .inr (.inl rfl)
  · exact .inr (.inr rfl)

/-- What a port write that succeeds can do. -/
theorem portOut_ok {n v : Byte} {s t : State} (h : portOut n v s = .ok t) :
    t = { s with console := consoleOutChar s.console v } ∨
      (∃ after : Disk, t = { s with disk := diskUnlessBusy s.disk after } ∧
        ∃ hd tr sc ad, after = { s.disk with head := hd, track := tr, sector := sc, addr := ad }) ∨
      (n = 10 ∧ ∃ r, diskCommand s.disk v s.mem = .ok r ∧ t = { s with disk := r.1, mem := r.2 }) := by
  unfold portOut at h
  split at h
  · cases h; exact .inl rfl
  · cases h; exact .inr (.inl ⟨_, rfl, _, _, _, _, rfl⟩)
  · cases h; exact .inr (.inl ⟨_, rfl, _, _, _, _, rfl⟩)
  · cases h; exact .inr (.inl ⟨_, rfl, _, _, _, _, rfl⟩)
  · cases h; exact .inr (.inl ⟨_, rfl, _, _, _, _, rfl⟩)
  · cases h; exact .inr (.inl ⟨_, rfl, _, _, _, _, rfl⟩)
  · rename_i hn
    cases hc : diskCommand s.disk v s.mem with
    | error f => rw [hc] at h; cases h
    | ok r =>
      rw [hc] at h
      cases h
      exact .inr (.inr ⟨BitVec.eq_of_toNat_eq hn, r, rfl, rfl⟩)
  · cases h

/-- A port read that succeeds touches no register, no memory and nothing of the driver's. -/
theorem portIn_frame {n : Byte} {s : State} {r : Byte × State} (h : portIn n s = .ok r) :
    r.2.main = s.main ∧ r.2.alt = s.alt ∧ r.2.ix = s.ix ∧ r.2.iy = s.iy ∧ r.2.sp = s.sp ∧ r.2.pc = s.pc ∧
      r.2.mem = s.mem ∧ r.2.launch = s.launch ∧ r.2.conFail = s.conFail ∧ r.2.diskFail = s.diskFail ∧
      r.2.schedule = s.schedule ∧ r.2.tick = s.tick ∧ r.2.driver = s.driver := by
  rcases portIn_ok h with h | h | h <;> rw [h] <;> simp

/-- A port write that succeeds touches no register and nothing of the driver's. -/
theorem portOut_frame {n v : Byte} {s t : State} (h : portOut n v s = .ok t) :
    t.main = s.main ∧ t.alt = s.alt ∧ t.ix = s.ix ∧ t.iy = s.iy ∧ t.sp = s.sp ∧ t.pc = s.pc ∧
      t.launch = s.launch ∧ t.conFail = s.conFail ∧ t.diskFail = s.diskFail ∧
      t.schedule = s.schedule ∧ t.tick = s.tick ∧ t.driver = s.driver := by
  rcases portOut_ok h with h | ⟨a, h, _⟩ | ⟨_, r, _, h⟩ <;> rw [h] <;> simp

/-- A port write stores to memory only as disk command 4. -/
theorem portOut_mem {n v : Byte} {s t : State} (h : portOut n v s = .ok t) :
    t.mem = s.mem ∨ (n = 10 ∧ v = 4 ∧ t.mem = diskCopyToAddr s.disk s.mem) := by
  rcases portOut_ok h with h | ⟨a, h, _⟩ | ⟨hn, r, hc, h⟩
  · simp [h]
  · simp [h]
  · unfold diskCommand at hc
    split at hc <;> cases hc
    · exact .inl (by simp [h])
    · exact .inl (by simp [h])
    · exact .inl (by simp [h])
    · exact .inl (by simp [h])
    · rename_i h4
      exact .inr ⟨hn, BitVec.eq_of_toNat_eq h4, by simp [h]⟩

/-- The memory after command 4 is in canonical form if the memory before it is. -/
theorem memory_wf_diskCopyToAddr {m : Store} (d : Disk) (h : Memory.wf m = true) :
    Memory.wf (diskCopyToAddr d m) = true := by
  unfold diskCopyToAddr
  split
  · exact h
  · exact memory_wf_memInstall h _ _

/-! ### The workers -/

/-- What a step of the console input worker can do: nothing once the input has ended; else a failure, a byte, or the
end of INPUT. -/
theorem inputWorkerStep_cases (tick : Nat) (s : State) :
    (s.console.inputState = .ended ∧ inputWorkerStep tick s = s) ∨
      (s.console.inputState = .live ∧ ∃ o, inputWorkerStep tick s = { s with conFail := o }.raise .consoleIOFailure ∨
        (∃ b, consoleNextInput s.console tick = some b ∧
          inputWorkerStep tick s = { s with conFail := o, console := consoleDeliver s.console b }) ∨
        (consoleNextInput s.console tick = none ∧ s.launch.conEofAborts = false ∧
          inputWorkerStep tick s = { s with conFail := o, console := { s.console with inputState := .ended } })) := by
  cases hs : s.console.inputState with
  | ended => exact .inl ⟨rfl, by simp [inputWorkerStep, consoleInputEnabled, hs]⟩
  | live =>
    refine .inr ⟨rfl, (askOracle s.conFail (Config.conFail tick)).2, ?_⟩
    simp only [inputWorkerStep, consoleInputEnabled, hs, decide_true, if_true]
    split
    · exact .inl rfl
    · cases hn : consoleNextInput s.console tick with
      | some b => exact .inr (.inl ⟨b, rfl, rfl⟩)
      | none =>
        dsimp only
        split
        · exact .inl rfl
        · rename_i ha
          exact .inr (.inr ⟨rfl, by simpa using ha, rfl⟩)

/-- The console input worker does not touch the disk. -/
theorem inputWorkerStep_disk (tick : Nat) (s : State) : (inputWorkerStep tick s).disk = s.disk := by
  rcases inputWorkerStep_cases tick s with ⟨_, h⟩ | ⟨_, o, h | ⟨b, _, h⟩ | ⟨_, _, h⟩⟩ <;> simp [h]

/-- What a step of the console output worker can do. -/
theorem outputWorkerStep_cases (tick : Nat) (s : State) :
    (s.console.outPending = none ∧ outputWorkerStep tick s = s) ∨
      ∃ v o, s.console.outPending = some v ∧
        (outputWorkerStep tick s = { s with conFail := o }.raise .consoleIOFailure ∨
          outputWorkerStep tick s = { s with conFail := o, console := consoleFlush s.console v }) := by
  unfold outputWorkerStep
  cases hp : s.console.outPending with
  | none => exact .inl ⟨rfl, rfl⟩
  | some v =>
    refine .inr ⟨v, (askOracle s.conFail (Config.conFail tick)).2, rfl, ?_⟩
    dsimp only
    split
    · exact .inl rfl
    · exact .inr rfl

/-- The console output worker does not touch the disk. -/
theorem outputWorkerStep_disk (tick : Nat) (s : State) : (outputWorkerStep tick s).disk = s.disk := by
  rcases outputWorkerStep_cases tick s with ⟨_, h⟩ | ⟨v, o, _, h | h⟩ <;> simp [h]

/-- What a step of the disk worker can do: nothing, or complete the pending command. -/
theorem diskWorkerStep_cases (tick : Nat) (s : State) :
    diskWorkerStep tick s = s ∨
      ∃ c fails o, s.disk.pending = some c ∧ s.disk.workerState ≠ .stopped ∧
        diskWorkerStep tick s = { s with disk := diskReport (diskPerform s.disk fails tick c), diskFail := o } := by
  unfold diskWorkerStep
  cases hp : s.disk.pending with
  | none => exact .inl rfl
  | some c =>
    dsimp only
    split
    · exact .inl rfl
    · rename_i hw
      exact .inr ⟨c, _, _, rfl, hw, rfl⟩

/-- A sector stored inside the data region keeps the image's canonical form; one outside stores nothing. -/
theorem storeWf_diskStoreSector {d : Disk} (off : Nat) (bytes : Vector Byte 128)
    (h : storeWf (imageSize d.heads d.tracks d.sectors) 0 d.image = true) :
    storeWf (imageSize d.heads d.tracks d.sectors) 0 (diskStoreSector d off bytes) = true := by
  unfold diskStoreSector
  split
  · rename_i hi
    exact storeWf_writeCells _ h (by simpa [diskInside] using hi)
  · exact h

/-- What performing a command leaves alone: everything but the buffer, the image and the latch. -/
theorem diskPerform_frame (d : Disk) (fails : Bool) (tick : Nat) (c : DiskCommand) :
    ∃ buffer image lh lt, (diskPerform d fails tick c).1 =
      { d with buffer := buffer, image := image, latchHead := lh, latchTrack := lt } ∧
      (image = d.image ∨ ∃ off bytes, image = diskStoreSector d off bytes) := by
  cases c with
  | seek h t =>
    simp only [diskPerform, diskDoSeek]
    split
    · exact ⟨_, _, _, _, rfl, .inl rfl⟩
    · exact ⟨_, _, _, _, rfl, .inl rfl⟩
  | read s =>
    simp only [diskPerform, diskDoRead]
    split
    · exact ⟨_, _, _, _, rfl, .inl rfl⟩
    · split
      · exact ⟨_, _, _, _, rfl, .inl rfl⟩
      · exact ⟨_, _, _, _, rfl, .inl rfl⟩
  | write s =>
    simp only [diskPerform, diskDoWrite]
    split
    · exact ⟨_, _, _, _, rfl, .inr ⟨_, _, rfl⟩⟩
    · split
      · exact ⟨_, _, _, _, rfl, .inr ⟨_, _, rfl⟩⟩
      · exact ⟨_, _, _, _, rfl, .inl rfl⟩

end Sys2Proof.Laws
end

