-- ==== Sys2Proof/Laws/Step.lean ====
section
/-! SUPPORT. What a step of the machine can do, said once. -/

namespace Sys2Proof.Laws

open Sys2Proof.Machine

/-- A machine with a recorded fault answers that fault. -/
theorem step_of_fault {s : State} {f : Fault} (h : s.driver.fault = some f) : step s = .fault f := by
  simp [step, h]

/-- A machine with no recorded fault takes its next mover's step. -/
theorem step_of_no_fault {s : State} (h : s.driver.fault = none) :
    step s = moveStep (nextMove s) s.tick (takeMove s) := by simp [step, h]

/-- What a CPU step that answers a next state was: nothing after the end of the run, TimesliceExpired, one
instruction, or an Illegal encoding. -/
theorem cpuStep_cases {s t : State} (h : cpuStep s = .next t) :
    (s.driver.ended = true ∧ t = s) ∨
      (s.driver.ended = false ∧ s.driver.budget = some s.driver.count ∧ t = s.timeslice) ∨
      (s.driver.ended = false ∧ s.driver.budget ≠ some s.driver.count ∧
        ((∃ i, fetchDecode s = .ok i ∧ exec i s.countInstr = .next t) ∨
          ∃ e, fetchDecode s = .error e ∧ t = s.countInstr.illegal (illegalBytes e))) := by
  unfold cpuStep at h
  cases he : s.driver.ended with
  | true =>
    simp only [cpuEnabled, he, Bool.not_true, Bool.false_eq_true, if_false] at h
    cases h
    exact .inl ⟨rfl, rfl⟩
  | false =>
    simp only [cpuEnabled, he, Bool.not_false, if_true, budgetUsed, decide_eq_true_eq] at h
    split at h
    · rename_i hb
      cases h
      exact .inr (.inl ⟨rfl, hb, rfl⟩)
    · rename_i hb
      refine .inr (.inr ⟨rfl, hb, ?_⟩)
      cases hf : fetchDecode s with
      | ok i => rw [hf] at h; exact .inl ⟨i, rfl, h⟩
      | error e => rw [hf] at h; cases h; exact .inr ⟨e, rfl, rfl⟩

/-- What a step that answers a next state was: no fault was recorded, and one agent or the host moved. -/
theorem step_cases {s t : State} (h : step s = .next t) :
    s.driver.fault = none ∧
      ((nextMove s = .agent .cpu ∧ cpuStep (takeMove s) = .next t) ∨
        (nextMove s = .agent .consoleInput ∧ t = inputWorkerStep s.tick (takeMove s)) ∨
        (nextMove s = .agent .consoleOutput ∧ t = outputWorkerStep s.tick (takeMove s)) ∨
        (nextMove s = .agent .disk ∧ t = diskWorkerStep s.tick (takeMove s)) ∨
        (∃ a, nextMove s = .host a ∧ t = hostStep (takeMove s) a)) := by
  cases hf : s.driver.fault with
  | some f => rw [step_of_fault hf] at h; cases h
  | none =>
    rw [step_of_no_fault hf] at h
    refine ⟨rfl, ?_⟩
    cases hm : nextMove s with
    | host a => rw [hm] at h; cases h; exact .inr (.inr (.inr (.inr ⟨a, rfl, rfl⟩)))
    | agent who =>
      rw [hm] at h
      cases who with
      | cpu => exact .inl ⟨rfl, h⟩
      | consoleInput => cases h; exact .inr (.inl ⟨rfl, rfl⟩)
      | consoleOutput => cases h; exact .inr (.inr (.inl ⟨rfl, rfl⟩))
      | disk => cases h; exact .inr (.inr (.inr (.inl ⟨rfl, rfl⟩)))

end Sys2Proof.Laws
end

