-- ==== Sys2Proof/Laws/Exec.lean ====
section
/-! SUPPORT. What an instruction, and then a step, can do to each device: one inversion per device, which every claim
about the devices goes through. -/

namespace Sys2Proof.Laws

open Sys2Proof.Machine

/-- What an instruction can do to the disk: nothing, a status poll, a register write, a dispatch, or command 3. -/
theorem exec_disk {i : Instr} {s t : State} (h : exec i s = .next t) :
    t.disk = s.disk ∨ t.disk = (diskStatusPoll s.disk).2 ∨
      (∃ hd tr sc ad, t.disk =
        diskUnlessBusy s.disk { s.disk with head := hd, track := tr, sector := sc, addr := ad }) ∨
      (∃ c, t.disk = diskDispatch s.disk c) ∨ t.disk = diskCopyFromAddr s.disk s.mem := by
  cases i
  case inAN n =>
    simp only [exec, execInAN] at h
    split at h
    · rename_i r hr
      cases h
      rcases portIn_ok hr with h | h | h <;> simp [h]
    · cases h; simp
  case outNA n =>
    simp only [exec, execOutNA] at h
    split at h
    · rename_i r hr
      cases h
      rcases portOut_ok hr with h | ⟨a, h, hd, tr, sc, ad, ha⟩ | ⟨_, r, hc, h⟩
      · simp [h]
      · subst h ha; exact .inr (.inr (.inl ⟨hd, tr, sc, ad, rfl⟩))
      · subst h
        rcases diskCommand_ok hc with ⟨c, h⟩ | h | h
        · exact .inr (.inr (.inr (.inl ⟨c, by simp [h]⟩)))
        · exact .inr (.inr (.inr (.inr (by simp [h]))))
        · exact .inl (by simp [h])
    · cases h; simp
  case jrNzE => cases h; left; simp only [State.jumpRelative]; split <;> rfl
  case jrZE => cases h; left; simp only [State.jumpRelative]; split <;> rfl
  case ldDdNn p nn => cases h; left; cases p <;> rfl
  all_goals (cases h; left; rfl)

/-- What an instruction can do to the console: nothing, take its input byte, or send it an output byte. -/
theorem exec_console {i : Instr} {s t : State} (h : exec i s = .next t) :
    t.console = s.console ∨ t.console = (consoleInChar s.launch.conInZeroOnRead s.console).2 ∨
      ∃ v, t.console = consoleOutChar s.console v := by
  cases i
  case inAN n =>
    simp only [exec, execInAN] at h
    split at h
    · rename_i r hr
      cases h
      rcases portIn_ok hr with h | h | h
      · exact .inl (by simp [h])
      · exact .inr (.inl (by simp [h]))
      · exact .inl (by simp [h])
    · cases h; exact .inl rfl
  case outNA n =>
    simp only [exec, execOutNA] at h
    split at h
    · rename_i r hr
      cases h
      rcases portOut_ok hr with h | ⟨a, h, _⟩ | ⟨_, r, _, h⟩
      · exact .inr (.inr ⟨_, by rw [h]; rfl⟩)
      · exact .inl (by simp [h])
      · exact .inl (by simp [h])
    · cases h; exact .inl rfl
  case jrNzE => cases h; left; simp only [State.jumpRelative]; split <;> rfl
  case jrZE => cases h; left; simp only [State.jumpRelative]; split <;> rfl
  case ldDdNn p nn => cases h; left; cases p <;> rfl
  all_goals (cases h; left; rfl)

/-- What a step can do to the disk: what an instruction can do, the disk's `halt()`, or the worker's completion of the
pending command. -/
theorem step_disk {s t : State} (h : step s = .next t) :
    t.disk = s.disk ∨ t.disk = (diskStatusPoll s.disk).2 ∨
      (∃ hd tr sc ad, t.disk =
        diskUnlessBusy s.disk { s.disk with head := hd, track := tr, sector := sc, addr := ad }) ∨
      (∃ c, t.disk = diskDispatch s.disk c) ∨ t.disk = diskCopyFromAddr s.disk s.mem ∨
      t.disk = diskHalt s.disk ∨
      (∃ c fails tick, s.disk.pending = some c ∧ s.disk.workerState ≠ .stopped ∧
        t.disk = diskReport (diskPerform s.disk fails tick c)) := by
  obtain ⟨hf, ⟨_, h⟩ | ⟨_, rfl⟩ | ⟨_, rfl⟩ | ⟨_, rfl⟩ | ⟨a, _, rfl⟩⟩ := step_cases h
  · rcases cpuStep_cases h with ⟨_, rfl⟩ | ⟨_, _, rfl⟩ | ⟨_, _, ⟨i, _, h⟩ | ⟨e, _, rfl⟩⟩
    · exact .inl rfl
    · exact .inl rfl
    · rcases exec_disk h with h | h | h | h | h
      · exact .inl h
      · exact .inr (.inl h)
      · exact .inr (.inr (.inl h))
      · exact .inr (.inr (.inr (.inl h)))
      · exact .inr (.inr (.inr (.inr (.inl h))))
    · exact .inl rfl
  · left; rw [inputWorkerStep_disk]; rfl
  · left; rw [outputWorkerStep_disk]; rfl
  · rcases diskWorkerStep_cases s.tick (takeMove s) with h | ⟨c, f, o, hp, hw, h⟩ <;> rw [h]
    · exact .inl rfl
    · exact .inr (.inr (.inr (.inr (.inr (.inr ⟨c, f, _, hp, hw, rfl⟩)))))
  · cases a
    case diskHalt => exact .inr (.inr (.inr (.inr (.inr (.inl rfl)))))
    case run b => left; simp only [hostStep]; split <;> rfl
    all_goals exact .inl rfl

/-- What a step can do to the console: what an instruction can do, a byte delivered, the end of INPUT, or the pending
byte written. -/
theorem step_console {s t : State} (h : step s = .next t) :
    t.console = s.console ∨ t.console = (consoleInChar s.launch.conInZeroOnRead s.console).2 ∨
      (∃ v, t.console = consoleOutChar s.console v) ∨
      (∃ b, s.console.inputState = .live ∧ t.console = consoleDeliver s.console b) ∨
      t.console = { s.console with inputState := .ended } ∨
      (∃ v, s.console.outPending = some v ∧ t.console = consoleFlush s.console v) := by
  obtain ⟨hf, ⟨_, h⟩ | ⟨_, rfl⟩ | ⟨_, rfl⟩ | ⟨_, rfl⟩ | ⟨a, _, rfl⟩⟩ := step_cases h
  · rcases cpuStep_cases h with ⟨_, rfl⟩ | ⟨_, _, rfl⟩ | ⟨_, _, ⟨i, _, h⟩ | ⟨e, _, rfl⟩⟩
    · exact .inl rfl
    · exact .inl rfl
    · rcases exec_console h with h | h | h
      · exact .inl h
      · exact .inr (.inl h)
      · exact .inr (.inr (.inl h))
    · exact .inl rfl
  · rcases inputWorkerStep_cases s.tick (takeMove s) with ⟨_, h⟩ | ⟨hl, o, h | ⟨b, _, h⟩ | ⟨_, _, h⟩⟩ <;> rw [h]
    · exact .inl rfl
    · exact .inl rfl
    · exact .inr (.inr (.inr (.inl ⟨b, hl, rfl⟩)))
    · exact .inr (.inr (.inr (.inr (.inl rfl))))
  · rcases outputWorkerStep_cases s.tick (takeMove s) with ⟨_, h⟩ | ⟨v, o, hp, h | h⟩ <;> rw [h]
    · exact .inl rfl
    · exact .inl rfl
    · exact .inr (.inr (.inr (.inr (.inr ⟨v, hp, rfl⟩))))
  · left; rcases diskWorkerStep_cases s.tick (takeMove s) with h | ⟨c, f, o, hp, hw, h⟩ <;> rw [h] <;> rfl
  · left
    cases a
    case run b => simp only [hostStep]; split <;> rfl
    all_goals rfl

end Sys2Proof.Laws
end

