-- ==== Sys2Proof/Laws/Flags.lean ====
section
/-! SUPPORT. What each bit of a packed F is (10_state.md R36). -/

namespace Sys2Proof.Laws

open Sys2Proof.Machine

section

variable (old : Byte) (s z h pv n c : Bool)

/-- The eight bits of a packed F, from bit 0 up. -/
theorem packFlags_bits :
    flagC (packFlags old s z h pv n c) = c ∧ flagN (packFlags old s z h pv n c) = n ∧
      flagPV (packFlags old s z h pv n c) = pv ∧ flagX (packFlags old s z h pv n c) = flagX old ∧
      flagH (packFlags old s z h pv n c) = h ∧ flagY (packFlags old s z h pv n c) = flagY old ∧
      flagZ (packFlags old s z h pv n c) = z ∧ flagS (packFlags old s z h pv n c) = s := by
  refine ⟨?_, ?_, ?_, ?_, ?_, ?_, ?_, ?_⟩ <;>
    simp only [packFlags, flagC, flagN, flagPV, flagX, flagH, flagY, flagZ, flagS, BitVec.getLsbD_append,
      BitVec.getLsbD_ofBool] <;> simp

@[simp] theorem flagS_packFlags : flagS (packFlags old s z h pv n c) = s :=
  (packFlags_bits old s z h pv n c).2.2.2.2.2.2.2
@[simp] theorem flagZ_packFlags : flagZ (packFlags old s z h pv n c) = z :=
  (packFlags_bits old s z h pv n c).2.2.2.2.2.2.1
@[simp] theorem flagY_packFlags : flagY (packFlags old s z h pv n c) = flagY old :=
  (packFlags_bits old s z h pv n c).2.2.2.2.2.1
@[simp] theorem flagH_packFlags : flagH (packFlags old s z h pv n c) = h :=
  (packFlags_bits old s z h pv n c).2.2.2.2.1
@[simp] theorem flagX_packFlags : flagX (packFlags old s z h pv n c) = flagX old :=
  (packFlags_bits old s z h pv n c).2.2.2.1
@[simp] theorem flagPV_packFlags : flagPV (packFlags old s z h pv n c) = pv :=
  (packFlags_bits old s z h pv n c).2.2.1
@[simp] theorem flagN_packFlags : flagN (packFlags old s z h pv n c) = n :=
  (packFlags_bits old s z h pv n c).2.1
@[simp] theorem flagC_packFlags : flagC (packFlags old s z h pv n c) = c :=
  (packFlags_bits old s z h pv n c).1

end

/-! ### Every flag writer keeps bits 5 and 3 (10_state.md R36) -/

theorem add8_keeps_unused (f a b : Byte) (cin : Bool) :
    flagY (add8 f a b cin).2 = flagY f ∧ flagX (add8 f a b cin).2 = flagX f := by simp [add8]

theorem and8_keeps_unused (f a b : Byte) :
    flagY (and8 f a b).2 = flagY f ∧ flagX (and8 f a b).2 = flagX f := by simp [and8]

theorem sub8flags_keeps_unused (f a b : Byte) :
    flagY (sub8flags f a b) = flagY f ∧ flagX (sub8flags f a b) = flagX f := by simp [sub8flags]

theorem bitFlags_keeps_unused (f v : Byte) (k : BitVec 3) :
    flagY (bitFlags f v k) = flagY f ∧ flagX (bitFlags f v k) = flagX f := by simp [bitFlags]

theorem add16_keeps_unused (f : Byte) (a b : Word) (cin full : Bool) :
    flagY (add16 f a b cin full).2 = flagY f ∧ flagX (add16 f a b cin full).2 = flagX f := by
  cases full <;> simp [add16]

end Sys2Proof.Laws
end

