-- ==== Sys2Proof/Laws/PerInstr.lean ====
section
/-! SUPPORT. Per-instruction statements about the syntax: the encoding of every instruction has the length of its
format (30_encoding.md R111, R124). -/

namespace Sys2Proof.Laws.EncodeLength

/-- The encoding of the instruction has as many bytes as its format. -/
def Statement (i : Instr) : Prop := (encode i).length = instrLength i

theorem nop : Statement .nop := rfl
theorem halt : Statement .halt := rfl
theorem jrE (e : Byte) : Statement (.jrE e) := rfl
theorem jrNzE (e : Byte) : Statement (.jrNzE e) := rfl
theorem jrZE (e : Byte) : Statement (.jrZE e) := rfl
theorem jpNn (nn : Word) : Statement (.jpNn nn) := rfl
theorem ldAN (n : Byte) : Statement (.ldAN n) := rfl
theorem ldRN (r : Reg8) (n : Byte) : Statement (.ldRN r n) := rfl
theorem ldHlN (n : Byte) : Statement (.ldHlN n) := rfl
theorem ldRR (dst src : Reg8) : Statement (.ldRR dst src) := rfl
theorem ldRHl (dst : Reg8) : Statement (.ldRHl dst) := rfl
theorem ldHlR (src : Reg8) : Statement (.ldHlR src) := rfl
theorem ldDdNn (p : Pair) (nn : Word) : Statement (.ldDdNn p nn) := rfl
theorem ldIxNn (nn : Word) : Statement (.ldIxNn nn) := rfl
theorem ldIyNn (nn : Word) : Statement (.ldIyNn nn) := rfl
theorem exx : Statement .exx := rfl
theorem exDeHl : Statement .exDeHl := rfl
theorem exAfAf : Statement .exAfAf := rfl
theorem addAR (r : Reg8) : Statement (.addAR r) := rfl
theorem addAHl : Statement .addAHl := rfl
theorem addAIx (d : Byte) : Statement (.addAIx d) := rfl
theorem addAIy (d : Byte) : Statement (.addAIy d) := rfl
theorem adcAR (r : Reg8) : Statement (.adcAR r) := rfl
theorem adcAHl : Statement .adcAHl := rfl
theorem adcAIx (d : Byte) : Statement (.adcAIx d) := rfl
theorem adcAIy (d : Byte) : Statement (.adcAIy d) := rfl
theorem andR (r : Reg8) : Statement (.andR r) := rfl
theorem andHl : Statement .andHl := rfl
theorem andIx (d : Byte) : Statement (.andIx d) := rfl
theorem andIy (d : Byte) : Statement (.andIy d) := rfl
theorem cpN (n : Byte) : Statement (.cpN n) := rfl
theorem addHlSs (p : Pair) : Statement (.addHlSs p) := rfl
theorem adcHlSs (p : Pair) : Statement (.adcHlSs p) := rfl
theorem bitR (k : BitVec 3) (r : Reg8) : Statement (.bitR k r) := rfl
theorem bitHl (k : BitVec 3) : Statement (.bitHl k) := rfl
theorem inAN (n : Byte) : Statement (.inAN n) := rfl
theorem outNA (n : Byte) : Statement (.outNA n) := rfl

end Sys2Proof.Laws.EncodeLength
end

