-- ==== Sys2Proof/Tests/Slice0.lean ====
section
/-! SUPPORT. Tests against the vectors of spec/95_test_vectors.md, one step each on a small machine, and for every
obligation with hypotheses a witness that meets them. Expected values are the spec's, named by vector. -/

namespace Sys2Proof.Tests

open Sys2Proof.Machine Sys2Proof.Safety Sys2Proof.Laws

/-! ### A small machine -/

/-- A machine as reset leaves it, with GEOM (1,1,1), an empty input and no failures, the CPU about to step. -/
def base : State :=
  { main := Bank.zero, alt := Bank.zero, ix := 0, iy := 0, sp := 0, pc := 0, mem := []
    console := Console.initial [] .ends
    disk := Disk.initial 1 1 1 [] (Vector.replicate 128 0)
    driver := Driver.initial none [] .unbounded
    launch := { conInZeroOnRead := false, conEofAborts := false }
    conFail := { answers := [], free := false }
    diskFail := { answers := [], free := false }
    schedule := [.agent .cpu]
    tick := 0 }

/-- The next state, if there is one. -/
def nextOf : Host.Outcome State Fault Refusal → Option State
  | .next t => some t
  | .fault _ => none
  | .refused _ => none

/-- One step with these bytes at PC. -/
def stepOn (s : State) (bytes : List Byte) : Option State := nextOf (step { s with mem := memInstall s.mem s.pc bytes })

/-- `base` with some main registers. -/
def withMain (k : Bank) : State := { base with main := k }

/-- `base` with a byte at an address. -/
def withByte (a : Word) (v : Byte) (s : State) : State := { s with mem := memWrite s.mem a v }

/-- `base` with A, F and B. -/
def abf (a b f : Byte) : State := withMain { Bank.zero with a := a, b := b, f := f }

/-- A and F after one step. -/
def afAfter (s : State) (bytes : List Byte) : Option (Byte × Byte) :=
  (stepOn s bytes).map fun t => (t.main.a, t.main.f)

/-- HL and F after one step. -/
def hlfAfter (s : State) (bytes : List Byte) : Option (Word × Byte) :=
  (stepOn s bytes).map fun t => (t.main.hl, t.main.f)

/-- PC after one step. -/
def pcAfter (s : State) (bytes : List Byte) : Option Word := (stepOn s bytes).map (·.pc)

/-- `base` with the disk changed. -/
def withDisk (d : Disk) (s : State) : State := { s with disk := d }

/-- The disk of `base` while Busy with a Read dispatched. -/
def busyDisk : Disk := { base.disk with status := .busy, pending := some (.read 0) }

/-! ### Well-formed instructions -/

theorem test_wf_refuses_ldRN_a : (Instr.ldRN .a 0x41).wellFormed = false := by decide
theorem test_wf_accepts_ldRN_b : (Instr.ldRN .b 0x41).wellFormed = true := by decide

/-! ### Decoding: one word per constructor, written out from opcode_table.json's encoding column -/

theorem test_decode_control :
    decode [0b00000000] = .ok (.nop, []) ∧ decode [0b01110110] = .ok (.halt, []) ∧
      decode [0b00011000, 0xFE] = .ok (.jrE 0xFE, []) ∧ decode [0b00100000, 0xFB] = .ok (.jrNzE 0xFB, []) ∧
      decode [0b00101000, 0x10] = .ok (.jrZE 0x10, []) ∧ decode [0b11000011, 0x34, 0x12] = .ok (.jpNn 0x1234, []) := by
  decide

theorem test_decode_loads :
    decode [0b00111110, 0x41] = .ok (.ldAN 0x41, []) ∧ decode [0b00101110, 0x99] = .ok (.ldRN .l 0x99, []) ∧
      decode [0b00110110, 0x05] = .ok (.ldHlN 0x05, []) ∧ decode [0b01111000] = .ok (.ldRR .a .b, []) ∧
      decode [0b01100110] = .ok (.ldRHl .h, []) ∧ decode [0b01110100] = .ok (.ldHlR .h, []) ∧
      decode [0b00110001, 0xFE, 0xFF] = .ok (.ldDdNn .sp 0xFFFE, []) := by decide

theorem test_decode_index_loads :
    decode [0b11011101, 0b00100001, 0x01, 0x02] = .ok (.ldIxNn 0x0201, []) ∧
      decode [0b11111101, 0b00100001, 0x00, 0x80] = .ok (.ldIyNn 0x8000, []) := by decide

theorem test_decode_exchanges :
    decode [0b11011001] = .ok (.exx, []) ∧ decode [0b11101011] = .ok (.exDeHl, []) ∧
      decode [0b00001000] = .ok (.exAfAf, []) := by decide

theorem test_decode_add :
    decode [0b10000000] = .ok (.addAR .b, []) ∧ decode [0b10000110] = .ok (.addAHl, []) ∧
      decode [0b11011101, 0b10000110, 0xFF] = .ok (.addAIx 0xFF, []) ∧
      decode [0b11111101, 0b10000110, 0x01] = .ok (.addAIy 0x01, []) := by decide

theorem test_decode_adc :
    decode [0b10001001] = .ok (.adcAR .c, []) ∧ decode [0b10001110] = .ok (.adcAHl, []) ∧
      decode [0b11011101, 0b10001110, 0x80] = .ok (.adcAIx 0x80, []) ∧
      decode [0b11111101, 0b10001110, 0x10] = .ok (.adcAIy 0x10, []) := by decide

theorem test_decode_and_cp :
    decode [0b10100111] = .ok (.andR .a, []) ∧ decode [0b10100110] = .ok (.andHl, []) ∧
      decode [0b11011101, 0b10100110, 0x7F] = .ok (.andIx 0x7F, []) ∧
      decode [0b11111101, 0b10100110, 0xFE] = .ok (.andIy 0xFE, []) ∧
      decode [0b11111110, 0x41] = .ok (.cpN 0x41, []) := by decide

theorem test_decode_wide_and_bit :
    decode [0b00011001] = .ok (.addHlSs .de, []) ∧ decode [0b11101101, 0b01111010] = .ok (.adcHlSs .sp, []) ∧
      decode [0b11001011, 0b01111111] = .ok (.bitR 7 .a, []) ∧
      decode [0b11001011, 0b01010110] = .ok (.bitHl 2, []) := by decide

theorem test_decode_ports :
    decode [0b11011011, 0x0B] = .ok (.inAN 0x0B, []) ∧ decode [0b11010011, 0x0A] = .ok (.outNA 0x0A, []) := by decide

/-- The ends of the CB page (30_encoding.md R119). -/
theorem test_decode_cb_ends :
    decode [0xCB, 0x3F] = .error (.illegal [0xCB, 0x3F]) ∧ decode [0xCB, 0x40] = .ok (.bitR 0 .b, []) ∧
      decode [0xCB, 0x80] = .error (.illegal [0xCB, 0x80]) := by decide

/-- V-I1 to V-I4, V-I6 to V-I10: what is fetched before the verdict. -/
theorem test_decode_illegal :
    decode [0x10, 0xFE] = .error (.illegal [0x10]) ∧ decode [0xC9] = .error (.illegal [0xC9]) ∧
      decode [0xF3] = .error (.illegal [0xF3]) ∧ decode [0xD6, 0x01] = .error (.illegal [0xD6]) ∧
      decode [0xED, 0x4B] = .error (.illegal [0xED, 0x4B]) ∧ decode [0xDD, 0xDD] = .error (.illegal [0xDD, 0xDD]) ∧
      decode [0xFD, 0x36, 0, 0] = .error (.illegal [0xFD, 0x36]) := by decide

/-- The table's numbering: the first byte is the most significant (98_reader.md). -/
theorem test_decode_table_word :
    decodeTableWord 8 0x76 = some .halt ∧ decodeTableWord 16 0x18FE = some (.jrE 0xFE) ∧
      decodeTableWord 32 0xDD210102 = some (.ldIxNn 0x0201) ∧ decodeTableWord 8 0xC9 = none := by decide

/-- A table word runs as the first instruction after reset. -/
theorem test_reset_runs_a_table_word :
    (∃ t, step (State.reset.withFetchWord 16 0x3E41) = .next t ∧ t.main.a = 0x41 ∧ t.pc = 2) ∧
      ∃ t, step (State.reset.withFetchWord 16 0xDB00) = .next t ∧
        t.driver.fault = some (.unmappedPort .input 0) :=
  ⟨⟨_, rfl, rfl, rfl⟩, ⟨_, rfl, rfl⟩⟩

/-! ### Control -/

theorem test_nop_wraps_pc : pcAfter { base with pc := 0xFFFF } [0x00] = some 0x0000 := by decide -- V-J10
theorem test_halt_wraps_pc_and_stops : -- V-J11
    (stepOn { base with pc := 0xFFFF } [0x76]).map (fun t => (t.pc, t.driver.stopReason, t.driver.ended)) =
      some (0x0000, some .halt, true) := by decide
theorem test_jr_most_negative : pcAfter { base with pc := 0x0100 } [0x18, 0x80] = some 0x0082 := by decide -- V-J2
theorem test_jr_wraps : pcAfter { base with pc := 0xFFFE } [0x18, 0x05] = some 0x0005 := by decide -- V-J4
theorem test_jrnz_not_taken : pcAfter (abf 0 0 0x40) [0x20, 0x10] = some 0x0002 := by decide -- V-J5
theorem test_jrnz_taken : pcAfter base [0x20, 0x10] = some 0x0012 := by decide -- V-J6
theorem test_jrz_taken : pcAfter (abf 0 0 0x40) [0x28, 0x10] = some 0x0012 := by decide -- V-J7
theorem test_jrz_not_taken : pcAfter base [0x28, 0x10] = some 0x0002 := by decide -- V-J8
theorem test_jp_operands_wrap : pcAfter { base with pc := 0xFFFF } [0xC3, 0x34, 0x12] = some 0x1234 := by decide -- V-J9

/-! ### Loads and exchanges -/

theorem test_ldAN : (stepOn base [0x3E, 0x41]).map (fun t => (t.main.a, t.pc)) = some (0x41, 2) := by decide -- V-D1
theorem test_ldRN : (stepOn base [0x2E, 0x99]).map (·.main.l) = some 0x99 := by decide -- V-D2
theorem test_ldHlN : -- V-D3
    (stepOn (withMain { Bank.zero with h := 0x01 }) [0x36, 0x05]).map (fun t => memRead t.mem 0x0100) = some 0x05 := by
  decide
theorem test_ldRR : (stepOn (abf 0 0x78 0) [0x78]).map (·.main.a) = some 0x78 := by decide -- V-D4
theorem test_ldRHl : -- V-D8
    (stepOn (withByte 0x1234 0xAB (withMain { Bank.zero with h := 0x12, l := 0x34 })) [0x66]).map
      (fun t => (t.main.h, t.main.l)) = some (0xAB, 0x34) := by decide
theorem test_ldHlR_h : -- V-D7
    (stepOn (withMain { Bank.zero with h := 0x12, l := 0x34 }) [0x74]).map (fun t => memRead t.mem 0x1234) =
      some 0x12 := by decide
theorem test_ldDdNn_hl : -- V-D9
    (stepOn base [0x21, 0x00, 0x01]).map (fun t => (t.main.h, t.main.l)) = some (0x01, 0x00) := by decide
theorem test_ldDdNn_sp : (stepOn base [0x31, 0xFE, 0xFF]).map (·.sp) = some 0xFFFE := by decide -- V-D10
theorem test_ldIxNn : (stepOn base [0xDD, 0x21, 0x01, 0x02]).map (·.ix) = some 0x0201 := by decide
theorem test_ldIyNn : (stepOn base [0xFD, 0x21, 0x00, 0x80]).map (·.iy) = some 0x8000 := by decide -- V-D12
theorem test_exx : -- V-D13
    (stepOn (withMain { a := 0x55, f := 0, b := 0x11, c := 0x11, d := 0x22, e := 0x22, h := 0x33, l := 0x33 })
      [0xD9]).map (fun t => (t.main.hl, t.alt.bc, t.alt.de, t.alt.hl, t.main.a, t.alt.a)) =
      some (0, 0x1111, 0x2222, 0x3333, 0x55, 0) := by decide
theorem test_exDeHl : -- V-D14
    (stepOn (withMain { Bank.zero with d := 0x11, e := 0x11, h := 0x22, l := 0x22 }) [0xEB]).map
      (fun t => (t.main.de, t.main.hl)) = some (0x2222, 0x1111) := by decide
theorem test_exAfAf : -- V-D15
    (stepOn (abf 0x01 0 0x42) [0x08]).map (fun t => (t.main.a, t.main.f, t.alt.a, t.alt.f)) =
      some (0, 0, 0x01, 0x42) := by decide

/-! ### Arithmetic, logic, compare, bit test -/

theorem test_addAR_overflow : afAfter (abf 0x7F 0x01 0) [0x80] = some (0x80, 0x94) := by decide -- V-A2
theorem test_addAR_zero_and_carry : afAfter (abf 0x80 0x80 0) [0x80] = some (0x00, 0x45) := by decide -- V-A3
theorem test_addAHl : -- V-A7
    afAfter (withByte 0x0100 0x05 (withMain { Bank.zero with a := 0x10, f := 0xFF, h := 0x01 })) [0x86] =
      some (0x15, 0x28) := by decide
theorem test_addAIx : -- V-X2 and the example of section 2.8
    afAfter (withByte 0x0100 0x05 { abf 0x10 0 0 with ix := 0x0101 }) [0xDD, 0x86, 0xFF] = some (0x15, 0x00) := by
  decide
theorem test_addAIy : -- V-X5 with the values of V-A1
    afAfter (withByte 0x1010 0x01 { abf 0x0F 0 0 with iy := 0x1000 }) [0xFD, 0x86, 0x10] = some (0x10, 0x10) := by
  decide
theorem test_adcAR_half_carry : afAfter (abf 0x0E 0x01 0x01) [0x88] = some (0x10, 0x10) := by decide -- V-A8
theorem test_adcAR_both_ff : afAfter (abf 0xFF 0xFF 0x01) [0x88] = some (0xFF, 0x91) := by decide -- V-A10
theorem test_adcAHl : -- V-A12
    afAfter (withMain { Bank.zero with a := 0xFF, f := 0x01, h := 0x01 }) [0x8E] = some (0x00, 0x51) := by decide
theorem test_adcAIx : -- V-X4 with the values of V-A9
    afAfter { abf 0x7F 0 0x01 with ix := 0 } [0xDD, 0x8E, 0x80] = some (0x80, 0x94) := by decide
theorem test_adcAIy : -- V-X6 with the values of V-A10
    afAfter (withByte 0x01FE 0xFF { abf 0xFF 0 0x01 with iy := 0x0200 }) [0xFD, 0x8E, 0xFE] = some (0xFF, 0x91) := by
  decide
theorem test_andR_zero : afAfter (abf 0xF0 0x0F 0) [0xA0] = some (0x00, 0x54) := by decide -- V-L1
theorem test_andR_odd_parity : afAfter (abf 0xFF 0x01 0) [0xA0] = some (0x01, 0x10) := by decide -- V-L3
theorem test_andHl : -- V-L6
    afAfter (withByte 0x0100 0x03 (withMain { Bank.zero with a := 0x03, f := 0x29, h := 0x01 })) [0xA6] =
      some (0x03, 0x3C) := by decide
theorem test_andIx : -- V-X7 with the values of V-L2
    afAfter (withByte 0x807E 0x81 { abf 0xFF 0 0 with ix := 0x7FFF }) [0xDD, 0xA6, 0x7F] = some (0x81, 0x94) := by
  decide
theorem test_andIy : -- V-X3's address, where the instruction itself stands: FD & 81 = 81
    afAfter { abf 0x81 0 0 with iy := 0xFFFF } [0xFD, 0xA6, 0x01] = some (0x81, 0x94) := by decide
theorem test_cpN_borrow : afAfter (abf 0x00 0 0) [0xFE, 0x01] = some (0x00, 0x93) := by decide -- V-C2
theorem test_cpN_overflow : afAfter (abf 0x7F 0 0) [0xFE, 0xFF] = some (0x7F, 0x87) := by decide -- V-C4
theorem test_addHlSs_sp : -- V-W5
    hlfAfter { withMain { Bank.zero with h := 0xFF, l := 0xFF, f := 0xFF } with sp := 1 } [0x39] = some (0, 0xFD) := by
  decide
theorem test_addHlSs_self : hlfAfter (withMain { Bank.zero with h := 0x80 }) [0x29] = some (0, 0x01) := by decide -- V-W3
theorem test_adcHlSs_carry_in : -- V-W6
    hlfAfter (withMain { Bank.zero with h := 0x7F, l := 0xFF, f := 0x01 }) [0xED, 0x4A] = some (0x8000, 0x94) := by
  decide
theorem test_adcHlSs_sp : -- V-W8
    hlfAfter { withMain { Bank.zero with h := 0x80 } with sp := 0x8000 } [0xED, 0x7A] = some (0, 0x45) := by decide
theorem test_bitR_sign : afAfter (abf 0x80 0 0x00) [0xCB, 0x7F] = some (0x80, 0x90) := by decide -- V-B3
theorem test_bitR_clear : afAfter (abf 0x00 0 0xFF) [0xCB, 0x7F] = some (0x00, 0x7D) := by decide -- V-B5
theorem test_bitHl_set : -- V-B6
    (stepOn (withByte 0x0100 0x40 (withMain { Bank.zero with h := 0x01, f := 0x28 })) [0xCB, 0x76]).map
      (fun t => (t.main.f, t.pc)) = some (0x38, 2) := by decide
theorem test_bitHl_clear : -- V-B2
    (stepOn (withByte 0x0100 0xFE (withMain { Bank.zero with h := 0x01 })) [0xCB, 0x46]).map (·.main.f) =
      some 0x54 := by decide

/-! ### Ports -/

theorem test_in_console_char : -- V-P5
    (stepOn { base with console := { base.console with inAvail := true, inByte := 0x61 } } [0xDB, 0x03]).map
      (fun t => (t.main.a, t.console.inAvail, t.driver.stopReason)) = some (0x61, false, some (.portIn 3)) := by
  decide
theorem test_in_keeps_flags : afAfter (abf 0 0 0xC5) [0xDB, 0x02] = some (0x00, 0xC5) := by decide -- V-P13
theorem test_out_console_char : -- V-P7
    (stepOn (abf 0x41 0 0) [0xD3, 0x00]).map
      (fun t => (t.console.outPending, t.console.outReady, t.driver.stopReason)) =
      some (some 0x41, false, some (.portOut 0 0x41)) := by decide
theorem test_out_bad_disk_command : -- V-P12
    (stepOn (abf 0x05 0 0) [0xD3, 0x0A]).map (·.driver.fault) = some (some (.badDiskCommand 0x05)) := by decide

/-! ### Devices and workers -/

theorem test_worker_overwrites_unread_byte : -- V-K4, the second step
    (nextOf (step { base with
      schedule := [.agent .consoleInput]
      console := { base.console with input := [0x62], inByte := 0x61, inAvail := true } })).map
      (fun t => (t.console.inByte, t.console.inAvail, t.console.input)) = some (0x62, true, []) := by decide
theorem test_worker_end_of_input : -- V-K6
    (nextOf (step { base with schedule := [.agent .consoleInput] })).map
      (fun t => (t.console.inputState, t.driver.fault)) = some (.ended, none) := by decide
theorem test_worker_end_of_input_aborts : -- V-K7
    (nextOf (step { base with
      schedule := [.agent .consoleInput], launch := { conInZeroOnRead := false, conEofAborts := true } })).map
      (·.driver.fault) = some (some .consoleIOFailure) := by decide
theorem test_worker_writes_output : -- V-K5
    (nextOf (step { base with
      schedule := [.agent .consoleOutput]
      console := { base.console with outReady := false, outPending := some 0x41 } })).map
      (fun t => (t.console.output, t.console.outReady, t.console.outPending)) = some ([0x41], true, none) := by decide
theorem test_disk_poll_reports_completion : -- V-S3
    (stepOn (withDisk { base.disk with status := .busy, done := some .ok } base) [0xDB, 0x04]).map
      (fun t => (t.main.a, t.disk.status, t.disk.done)) = some (0x00, .ready, none) := by decide
theorem test_disk_busy_drops_head : -- V-S4
    (stepOn (withDisk busyDisk (abf 0x03 0 0)) [0xD3, 0x05]).map (·.disk.head) = some 0 := by decide
theorem test_disk_bad_param : -- V-S7
    (stepOn (withDisk { base.disk with head := 1 } (abf 0x02 0 0)) [0xD3, 0x0A]).map
      (fun t => (t.disk.status, t.disk.pending)) = some (.badParam, none) := by decide
theorem test_disk_read_uses_the_latch : -- V-S9: sector (0,0,0) of GEOM (2,1,1), the head register is 1
    (nextOf (step { base with
      schedule := [.agent .disk]
      disk := { Disk.initial 2 1 1 (writeCells [] 0 [0xAA]) (Vector.replicate 128 0) with
        head := 1, status := .busy, pending := some (.read 0) } })).map
      (fun t => (t.disk.buffer[0], t.disk.done, t.disk.status)) = some (0xAA, some .ok, .busy) := by decide
theorem test_disk_fail_reported : -- V-S12, the worker's step
    (nextOf (step { base with
      schedule := [.agent .disk], diskFail := { answers := [true], free := false }, disk := busyDisk })).map
      (·.disk.done) = some (some .readFail) := by decide
set_option maxRecDepth 4000 in
theorem test_disk_copy_wraps : -- V-S10
    (stepOn (withDisk { base.disk with addr := 0xFFC0, buffer := Vector.ofFn fun i => BitVec.ofNat 8 (i.val + 1) }
      { abf 0x04 0 0 with pc := 0x0200 }) [0xD3, 0x0A]).map
      (fun t => (memRead t.mem 0xFFC0, memRead t.mem 0xFFFF, memRead t.mem 0x0000, memRead t.mem 0x003F)) =
      some (0x01, 0x40, 0x41, 0x80) := by decide

/-! ### The driver, stops and the host -/

theorem test_illegal_step : -- V-I5
    (stepOn base [0xCB, 0x00]).map (fun t => (t.pc, t.driver.fault, t.driver.count)) =
      some (0, some (.illegalOpcode 0 [0xCB, 0x00]), 1) := by decide
theorem test_timeslice : -- 60_exceptions.md R381 with a budget of 0
    (stepOn { base with driver := Driver.initial (some 0) [3] .free } [0x3E, 0x41]).map
      (fun t => (t.pc, t.driver.stopReason, t.driver.budget)) = some (0, some .timesliceExpired, some 3) := by decide
theorem test_timeslice_open_budget : -- R7: past the listed budgets the next one is open, so it may be any, 0 too
    (stepOn { base with driver := Driver.initial (some 0) [] .free } [0x3E, 0x41]).map (·.driver.budget) =
      some (some (Config.budget 1)) := by rfl
theorem test_install_wraps : -- W4
    let m := memInstall [] 0xFFFE [0x11, 0x22, 0x33]
    (memRead m 0xFFFE, memRead m 0xFFFF, memRead m 0x0000) = (0x11, 0x22, 0x33) := by decide

/-- Launch parameters with an image of GEOM (1,1,1), a ROM of HALT, and nothing free. -/
def launch : LaunchParams :=
  { imageFile := List.replicate 128 0xAA ++ [1, 1, 1], rom := [0x76], mem0 := [(0x0005, 0x99)]
    buf0 := Vector.replicate 128 0, input := [0x78], inputTail := .ends, conInZeroOnRead := true, conEofAborts := false
    conFail := { answers := [], free := false }, diskFail := { answers := [], free := false }
    budget := none, budgets := [1000], budgetTail := .free, schedule := [] }

set_option maxRecDepth 4000 in
theorem test_boot_fails_on_image_size : -- W7
    boot { launch with imageFile := List.replicate 127 0xAA ++ [1, 1, 1] } = .fault .configurationError := by rfl

/-! ### Witnesses: every obligation's hypotheses can be met -/

set_option maxRecDepth 4000 in
theorem witness_BootLeavesDevicesInitial : ∃ s, boot launch = .next s := ⟨_, rfl⟩

set_option maxRecDepth 4000 in
/-- The first and the last address past the ROM. -/
theorem witness_BootInstallsRomAtZero :
    (∃ s, boot launch = .next s) ∧ launch.rom.length ≤ 65536 ∧ launch.rom.length ≤ (0x0001 : Word).toNat ∧
      launch.rom.length ≤ (0xFFFF : Word).toNat := ⟨⟨_, rfl⟩, by decide⟩

set_option maxRecDepth 4000 in
theorem witness_ImageFileFixesGeometry :
    (launch.imageFile = List.replicate 128 0xAA ++ [1, 1, 1] ∧
      launch.imageFile.length = (1 : Byte).toNat * (1 : Byte).toNat * (1 : Byte).toNat * 128 + 3) ∧
    construct { launch with imageFile := [0x01, 0x01] } = .fault .configurationError ∧
    (∃ m, construct { launch with imageFile := [0x00, 0x01, 0x01] } = .next m) ∧ ∃ t, step base = .next t :=
  ⟨⟨rfl, rfl⟩, rfl, ⟨_, rfl⟩, ⟨_, rfl⟩⟩

/-- No byte, all of memory, and an address next to a wrapped area. -/
theorem witness_InstallWritesInOrder :
    ([] : List Byte).length ≤ 65536 ∧ (List.replicate 65536 (0x11 : Byte)).length ≤ 65536 ∧
      ∀ k < [(0x11 : Byte), 0x22, 0x33].length, (0x0001 : Word) ≠ 0xFFFE + BitVec.ofNat 16 k := by
  exact ⟨by decide, Nat.le_of_eq List.length_replicate, by decide⟩

theorem witness_DecodeEncodeRoundTrip : (Instr.bitR 7 .a).wellFormed = true := by decide
theorem witness_DecodedBytesAreTheEncoding : decode [0xCB, 0x7F, 0x00] = .ok (.bitR 7 .a, [0x00]) := by decide

/-- Both sides of the range of the CB page, and both outcomes of the ED page. -/
theorem witness_CbPageIsBitTest_EdPageIsAdcHl :
    (¬0x40 ≤ (0x3F : Byte).toNat) ∧ 0x40 ≤ (0x40 : Byte).toNat ∧ (0x7F : Byte).toNat ≤ 0x7F ∧
      decode [0xED, 0x4A] = .ok (.adcHlSs .bc, []) ∧ decode [0xED, 0x42] = .error (.illegal [0xED, 0x42]) := by decide

theorem witness_IndexPages : (0x22 : Byte) ≠ 0x21 ∧ (0x22 : Byte) ≠ 0x86 ∧ (0x22 : Byte) ≠ 0x8E ∧ (0x22 : Byte) ≠ 0xA6 := by
  decide

theorem witness_UnprefixedIllegalBytes :
    ((0x10 : Byte) ≠ 0xCB ∧ (0x10 : Byte) ≠ 0xDD ∧ (0x10 : Byte) ≠ 0xED ∧ (0x10 : Byte) ≠ 0xFD ∧
      listedIllegal 0x10 = true) ∧
    (0x00 : Byte) ≠ 0xCB ∧ (0x00 : Byte) ≠ 0xDD ∧ (0x00 : Byte) ≠ 0xED ∧ (0x00 : Byte) ≠ 0xFD ∧
      listedIllegal 0x00 = false := by decide

theorem witness_EveryByteSequenceIsDecided : 4 ≤ [(0xDD : Byte), 0x21, 0x00, 0x00].length := by decide

theorem base_runs : CpuRuns base := ⟨rfl, rfl, rfl, by decide⟩

theorem witness_StepRunsDecodedInstruction :
    CpuRuns base ∧ decode (memBytes base.mem base.pc 4) = .ok (.nop, [0, 0, 0]) := ⟨base_runs, rfl⟩

/-- A four-byte instruction across the top of memory. -/
theorem witness_StepRunsEncodedInstruction :
    CpuRuns { base with pc := 0xFFFE, mem := memInstall [] 0xFFFE [0xDD, 0x21, 0x01, 0x02] } ∧
      (Instr.ldIxNn 0x0201).wellFormed = true ∧
      memBytes (memInstall [] 0xFFFE [0xDD, 0x21, 0x01, 0x02]) 0xFFFE (instrLength (.ldIxNn 0x0201)) =
        encode (.ldIxNn 0x0201) := ⟨⟨rfl, rfl, rfl, by decide⟩, rfl, by decide⟩

theorem witness_IllegalEncodingIsFatal :
    CpuRuns (withByte 0 0xC9 base) ∧ decode (memBytes (withByte 0 0xC9 base).mem 0 4) = .error (.illegal [0xC9]) :=
  ⟨⟨rfl, rfl, rfl, by decide⟩, by decide⟩

theorem witness_OnlyRecordedFaultsStop :
    base.driver.fault = none ∧ step { base with driver := { base.driver with fault := some .consoleIOFailure } } =
      .fault .consoleIOFailure := ⟨rfl, rfl⟩

theorem witness_TimesliceExpires :
    Moves .cpu { base with driver := Driver.initial (some 0) [] .free } ∧
      (Driver.initial (some 0) [] .free).ended = false ∧
      (Driver.initial (some 0) [] .free).budget = some (Driver.initial (some 0) [] .free).count :=
  ⟨⟨rfl, rfl⟩, rfl, rfl⟩

theorem witness_LoadRegister : Reg8.b ≠ .a ∧ Reg8.l ≠ .a := by decide

/-- The hypothesis names the operand of each pair. -/
theorem witness_SixteenBitAddition : ∀ (s : State) (p : Pair), ∃ operand : Word, operand = match p with
    | .bc => s.main.b ++ s.main.c
    | .de => s.main.d ++ s.main.e
    | .hl => s.main.h ++ s.main.l
    | .sp => s.sp := fun _ _ => ⟨_, rfl⟩

theorem witness_SequentialFlow :
    assignsPc .halt = false ∧ ∃ t, exec .halt { base with pc := 0xFFFF } = .next t := ⟨rfl, ⟨_, rfl⟩⟩

theorem witness_UnusedFlagBitsKept : Instr.andHl ≠ .exAfAf ∧ ∃ t, exec .andHl (abf 0 0 0x28) = .next t :=
  ⟨by decide, ⟨_, rfl⟩⟩

theorem witness_OnlyFlagWritersWriteF : writesF (.inAN 2) = false ∧ ∃ t, exec (.inAN 2) base = .next t :=
  ⟨rfl, ⟨_, rfl⟩⟩

theorem witness_OnlyExchangesWriteShadow :
    (∃ t, exec .exx (abf 1 2 3) = .next t) ∧ Instr.exx ≠ .exAfAf ∧ Instr.exAfAf ≠ .exx ∧ Reg8.b ≠ .a :=
  ⟨⟨_, rfl⟩, by decide⟩

theorem witness_OnlyLoadsWriteIndexAndSp :
    (∃ t, exec (.ldDdNn .hl 5) base = .next t) ∧ (∀ nn, Instr.ldDdNn .hl 5 ≠ .ldIxNn nn) ∧
      (∀ nn, Instr.ldDdNn .hl 5 ≠ .ldIyNn nn) ∧ ∀ nn, Instr.ldDdNn .hl 5 ≠ .ldDdNn .sp nn :=
  ⟨⟨_, rfl⟩, by simp, by simp, by simp⟩

/-- Memory changes by a store, and by disk command 4 at the last byte of a wrapped copy. -/
theorem witness_OnlyStoresWriteMemory :
    ((nextOf (exec (.ldHlN 5) base)).map fun t => memRead t.mem 0) = some 5 ∧ memRead base.mem 0 = 0 ∧
      ((nextOf (exec (.outNA 10)
        (withDisk { base.disk with addr := 0xFFFF, buffer := Vector.replicate 128 7 } (abf 4 0 0)))).map
        fun t => memRead t.mem 0x007E) = some 7 := by
  set_option maxRecDepth 4000 in decide

/-- Two states that differ in their devices only. -/
theorem witness_NonPortInstructionsIgnoreDevices :
    isPort .nop = false ∧ (withDisk busyDisk base).main = base.main ∧ (withDisk busyDisk base).mem = base.mem ∧
      (withDisk busyDisk base).disk ≠ base.disk ∧ (∃ t, exec .nop base = .next t) ∧
      ∃ t, exec .nop (withDisk busyDisk base) = .next t := ⟨rfl, rfl, rfl, by decide, ⟨_, rfl⟩, ⟨_, rfl⟩⟩

theorem witness_PortInstructionFrame :
    (∃ t, exec (.inAN 0) base = .next t) ∧ ∃ t, exec (.outNA 10) (abf 0xFF 0 0) = .next t := ⟨⟨_, rfl⟩, ⟨_, rfl⟩⟩

/-- Each clause of the hypothesis has a value. -/
theorem witness_InWithoutSideEffect : ∀ (s : State), ∀ n ∈ [(1 : Byte), 2, 11, 12, 13], ∃ v : Byte,
    (n = 1 ∧ v = (if s.console.outReady then 0x00 else 0xFF)) ∨
      (n = 2 ∧ v = (if s.console.inAvail then 0xFF else 0x00)) ∨
      (n = 11 ∧ v = s.disk.heads) ∨ (n = 12 ∧ v = s.disk.tracks) ∨ (n = 13 ∧ v = s.disk.sectors) := by
  intro s n hn
  simp only [List.mem_cons, List.not_mem_nil, or_false] at hn
  rcases hn with rfl | rfl | rfl | rfl | rfl
  · exact ⟨_, .inl ⟨rfl, rfl⟩⟩
  · exact ⟨_, .inr (.inl ⟨rfl, rfl⟩)⟩
  · exact ⟨_, .inr (.inr (.inl ⟨rfl, rfl⟩))⟩
  · exact ⟨_, .inr (.inr (.inr (.inl ⟨rfl, rfl⟩)))⟩
  · exact ⟨_, .inr (.inr (.inr (.inr ⟨rfl, rfl⟩)))⟩

/-- A completion reported while Busy, one not yet reported, and a status that is not Busy. -/
theorem witness_InDiskStatus : ∀ d : Disk, ∃ (after : DiskStatus) (left : Option DiskResult),
    (after, left) = match d.status, d.done with
      | .busy, some .ok => (.ready, none)
      | .busy, some .seekFail => (.seekError, none)
      | .busy, some .readFail => (.readError, none)
      | .busy, some .writeFail => (.writeError, none)
      | st, cell => (st, cell) := fun _ => ⟨_, _, rfl⟩

/-- The three commands with the control registers in the geometry, outside it, and while Busy. -/
theorem witness_OutDiskDispatch :
    (abf 0 0 0).main.a = 0 ∧ (abf 1 0 0).main.a = 1 ∧ (abf 2 0 0).main.a = 2 ∧ base.disk.status ≠ .busy ∧
      busyDisk.status = .busy ∧ InGeometry base.disk 0 0 0 ∧ ¬InGeometry base.disk 0 0 1 :=
  ⟨rfl, rfl, rfl, by decide, rfl, by unfold InGeometry; decide, by unfold InGeometry; decide⟩

/-- Each of the five register ports: the hypothesis names the disk after the write. -/
theorem witness_OutDiskRegister : ∀ (s : State), ∀ n ∈ [(5 : Byte), 6, 7, 8, 9], ∃ after : Disk,
    (n = 5 ∧ after = { s.disk with head := s.main.a }) ∨ (n = 6 ∧ after = { s.disk with track := s.main.a }) ∨
      (n = 7 ∧ after = { s.disk with sector := s.main.a }) ∨
      (n = 8 ∧ after = { s.disk with addr := s.disk.addr.extractLsb' 8 8 ++ s.main.a }) ∨
      (n = 9 ∧ after = { s.disk with addr := s.main.a ++ s.disk.addr.extractLsb' 0 8 }) := by
  intro s n hn
  simp only [List.mem_cons, List.not_mem_nil, or_false] at hn
  rcases hn with rfl | rfl | rfl | rfl | rfl
  · exact ⟨_, .inl ⟨rfl, rfl⟩⟩
  · exact ⟨_, .inr (.inl ⟨rfl, rfl⟩)⟩
  · exact ⟨_, .inr (.inr (.inl ⟨rfl, rfl⟩))⟩
  · exact ⟨_, .inr (.inr (.inr (.inl ⟨rfl, rfl⟩)))⟩
  · exact ⟨_, .inr (.inr (.inr (.inr ⟨rfl, rfl⟩)))⟩

/-- Both copies, Busy and not, and the first address past the copied bytes. -/
theorem witness_OutDiskCopies :
    (abf 3 0 0).main.a = 3 ∧ (abf 4 0 0).main.a = 4 ∧ busyDisk.status = .busy ∧ base.disk.status ≠ .busy ∧
      ∀ k < 128, (0x0080 : Word) ≠ base.disk.addr + BitVec.ofNat 16 k :=
  ⟨rfl, rfl, rfl, by decide, by decide⟩

/-- Ports next to mapped ones: 0 is no input, 14 is none at all, 1 and 4 are no outputs. -/
theorem witness_UnmappedPortsAreFatal :
    base.driver.fault = none ∧ 0 ∉ inPorts ∧ 5 ∉ inPorts ∧ 10 ∉ inPorts ∧ 14 ∉ inPorts ∧ 1 ∉ outPorts ∧
      4 ∉ outPorts ∧ 11 ∉ outPorts ∧ 0xFF ∉ outPorts := by decide

theorem witness_BadDiskCommandIsFatal :
    base.driver.fault = none ∧ 4 < (abf 0x05 0 0).main.a.toNat ∧ 4 < (abf 0xFF 0 0).main.a.toNat := by decide

theorem witness_BusyDropsOperations :
    busyDisk.status = .busy ∧ (∃ t, exec (.outNA 5) (withDisk busyDisk base) = .next t) ∧
      (∃ t, exec (.outNA 10) (withDisk busyDisk (abf 7 0 0)) = .next t) ∧ (abf 7 0 0).driver.fault = none ∧
      4 < (abf 7 0 0).main.a.toNat ∧ ∃ t, step (withDisk busyDisk base) = .next t :=
  ⟨rfl, ⟨_, rfl⟩, ⟨_, rfl⟩, rfl, by decide, ⟨_, rfl⟩⟩

/-- A state in which a worker takes the next step. -/
def moves (who : Agent) (s : State) : State := { s with schedule := [.agent who] }

/-- Each clause: a byte of INPUT, a byte to write, the end of INPUT, a failure of either worker, a worker with nothing
to do, and an ended input. -/
theorem witness_ConsoleWorkerSteps :
    (Moves .consoleInput (moves .consoleInput base) ∧ NextAnswer base.conFail false ∧
      base.console.inputState = .live ∧ base.console.input = [] ∧ base.console.inputTail = .ends) ∧
    Console.input { base.console with input := [0x61] } = 0x61 :: [] ∧
    (Moves .consoleOutput (moves .consoleOutput base) ∧
      Console.outPending { base.console with outReady := false, outPending := some 0x41 } = some 0x41) ∧
    NextAnswer { answers := [false, true], free := true } false ∧ NextAnswer { answers := [true], free := true } true ∧
    (Moves .consoleOutput (moves .consoleOutput base) ∧ base.console.outPending = none) ∧
    (Console.inputState { base.console with inputState := .ended } = .ended ∧
      ∃ t, step { base with console := { base.console with inputState := .ended } } = .next t) :=
  ⟨⟨⟨rfl, rfl⟩, .inr ⟨rfl, rfl, rfl⟩, rfl, rfl, rfl⟩, rfl, ⟨⟨rfl, rfl⟩, rfl⟩, .inl rfl, .inl rfl, ⟨⟨rfl, rfl⟩, rfl⟩,
    rfl, ⟨_, rfl⟩⟩

/-- Each clause: the pending Seek, Read and Write with the latch in the geometry; a running worker and one about to
stop. -/
theorem witness_DiskWorkerCompletes :
    Moves .disk (moves .disk (withDisk busyDisk base)) ∧ NextAnswer base.diskFail false ∧
      busyDisk.workerState ≠ .stopped ∧ Disk.workerState { busyDisk with workerState := .stopping } ≠ .stopped ∧
      busyDisk.pending = some (.read 0) ∧ InGeometry busyDisk busyDisk.latchHead busyDisk.latchTrack 0 ∧
      Disk.pending { busyDisk with pending := some (.write 0) } = some (.write 0) ∧
      Disk.pending { busyDisk with pending := some (.seek 0 0) } = some (.seek 0 0) :=
  ⟨⟨rfl, rfl⟩, .inr ⟨rfl, rfl, rfl⟩, by decide, by decide, rfl, by unfold InGeometry; decide, rfl, rfl⟩

/-- Each clause: the pending Read, Write and Seek. -/
theorem witness_DiskFailuresAreReported :
    Moves .disk (moves .disk (withDisk busyDisk { base with diskFail := { answers := [true], free := true } })) ∧
      NextAnswer { answers := [true], free := true } true ∧ busyDisk.workerState ≠ .stopped ∧
      busyDisk.pending = some (.read 0) ∧
      Disk.pending { busyDisk with pending := some (.write 0) } = some (.write 0) ∧
      Disk.pending { busyDisk with pending := some (.seek 0 0) } = some (.seek 0 0) :=
  ⟨⟨rfl, rfl⟩, .inl rfl, by decide, rfl, rfl, rfl⟩

theorem witness_WorkersLeaveTheCpuAlone :
    Agent.disk ≠ .cpu ∧ Moves .disk (moves .disk (withDisk busyDisk base)) ∧
      ∃ t, step (moves .disk (withDisk busyDisk base)) = .next t := ⟨by decide, ⟨rfl, rfl⟩, ⟨_, rfl⟩⟩

/-- Each clause: nothing pending, a pending command, a worker about to stop, and a stopped worker with a command
dispatched after the halt. -/
theorem witness_DiskHaltStopsTheWorker :
    base.disk.pending = none ∧ (busyDisk.pending ≠ none ∧ busyDisk.workerState = .running) ∧
      (Moves .disk (moves .disk (withDisk { busyDisk with workerState := .stopping } base)) ∧
        Disk.workerState { busyDisk with workerState := .stopping } = .stopping) ∧
      Disk.workerState { busyDisk with workerState := .stopped } = .stopped ∧ busyDisk.done = none ∧
      busyDisk.status = .busy ∧ ∃ t, step (withDisk { busyDisk with workerState := .stopped } base) = .next t :=
  ⟨rfl, ⟨by decide, rfl⟩, ⟨⟨rfl, rfl⟩, rfl⟩, rfl, rfl, rfl, ⟨_, rfl⟩⟩

theorem witness_StepKeepsInvariant : Inv base ∧ ∃ t, step base = .next t := by
  refine ⟨⟨rfl, rfl, fun h => absurd rfl h, ⟨?_, ?_, by decide, nofun⟩⟩, ⟨_, rfl⟩⟩
  · rintro (h | h) <;> exact absurd rfl h
  · rintro ⟨h, _⟩; exact absurd rfl h

/-! A run for `PendingOutputIsWritten`: the driver has ended the run and the input has ended, the output worker writes
its byte in the first step, and every later step, whoever takes it, changes nothing but the tick. -/

/-- The first state of the run. -/
def waiting : State :=
  { base with
    driver := { base.driver with ended := true }
    schedule := [.agent .consoleOutput]
    console := { base.console with inputState := .ended, outReady := false, outPending := some 0x41 } }

/-- The states of the run. -/
def waitingRun : Nat → State
  | 0 => waiting
  | n + 1 => { outputWorkerStep 0 (takeMove waiting) with tick := n + 1 }

theorem waitingRun_isRun : IsRun waitingRun := by
  intro n
  cases n with
  | zero => rfl
  | succ n =>
    show moveStep (.agent (Config.agent (n + 1))) (n + 1) (takeMove (waitingRun (n + 1))) = _
    cases Config.agent (n + 1) <;> rfl

theorem witness_PendingOutputIsWritten :
    IsRun waitingRun ∧ WeaklyFair .consoleOutput waitingRun ∧ ConsoleInv (waitingRun 0).console ∧
      NeverFails (waitingRun 0).conFail ∧ (waitingRun 0).console.outPending = some 0x41 := by
  refine ⟨waitingRun_isRun, fun n h => ?_, fun _ => rfl, ⟨rfl, rfl⟩, rfl⟩
  exact absurd (h (n + 1) (by omega)) (show ¬false = true by decide)

end Sys2Proof.Tests
end

section
/-! PROOFS. What `construct`, `boot` and `reset()` make of the machine (10_state.md R46). -/

namespace Sys2Proof.Proofs

open Sys2Proof.Machine Sys2Proof.Laws

@[simp] theorem hostStep_reset (s : State) : hostStep s .reset = s.resetCpu := rfl

/-- A machine is constructed only from an image file that opens, and its devices then have their initial state. -/
theorem construct_devices {p : LaunchParams} {m : State} (h : construct p = .next m) :
    ∃ data heads tracks sectors, openImage p.imageFile = some (data, heads, tracks, sectors) ∧
      m.console = Console.initial p.input p.inputTail ∧
      m.disk = Disk.initial heads tracks sectors (writeCells [] 0 data) p.buf0 := by
  unfold construct at h
  split at h
  case h_1 => cases h
  case h_2 data heads tracks sectors hopen =>
    cases h
    exact ⟨data, heads, tracks, sectors, hopen, rfl, rfl⟩

/-- `boot` gives a machine exactly where `construct` does: that one with the ROM installed and the CPU reset. -/
theorem boot_eq_next {p : LaunchParams} {s : State} :
    boot p = .next s ↔
      ∃ m, construct p = .next m ∧ s = { m with mem := memInstall m.mem romBase p.rom }.resetCpu := by
  unfold boot
  cases construct p with
  | next m => simp [eq_comm]
  | fault f => simp
  | refused r => simp

/-- The boot keeps the devices as they were constructed: neither the ROM nor `reset()` touches them. -/
theorem boot_devices {p : LaunchParams} {s : State} (h : boot p = .next s) :
    ∃ data heads tracks sectors, openImage p.imageFile = some (data, heads, tracks, sectors) ∧
      s.console = Console.initial p.input p.inputTail ∧
      s.disk = Disk.initial heads tracks sectors (writeCells [] 0 data) p.buf0 := by
  obtain ⟨m, hconstruct, rfl⟩ := boot_eq_next.mp h
  simpa using construct_devices hconstruct

/-- Settles O3: the booted devices are `Console.initial` and `Disk.initial`, and `reset()` keeps both. -/
theorem bootLeavesDevicesInitial : Obligations.BootLeavesDevicesInitial := by
  intro p s hboot
  obtain ⟨data, heads, tracks, sectors, -, hconsole, hdisk⟩ := boot_devices hboot
  simp [hconsole, hdisk, Console.initial, Disk.initial]

end Sys2Proof.Proofs
end

section
/-! PROOFS. What `install` stores, and in which order (20_memory.md R90). -/

namespace Sys2Proof.Proofs

open Sys2Proof.Machine Sys2Proof.Laws

/-- The address `k` places after the next one is the one `k + 1` places on, with wrap. -/
theorem word_add_one_add_ofNat (a : Word) (k : Nat) :
    a + 1 + BitVec.ofNat 16 k = a + BitVec.ofNat 16 (k + 1) := by
  rw [BitVec.ofNat_add, BitVec.add_assoc, BitVec.add_comm 1]
  rfl

/-- Fewer than 65536 places on, the address has not wrapped round to where it started. -/
theorem word_ne_add_one_add_ofNat (a : Word) {k : Nat} (hk : k + 1 < 65536) :
    a ≠ a + 1 + BitVec.ofNat 16 k := by
  bv_omega

@[simp] theorem memInstall_nil (m : Store) (a : Word) : memInstall m a [] = m := rfl

@[simp] theorem memInstall_cons (m : Store) (a : Word) (v : Byte) (vs : List Byte) :
    memInstall m a (v :: vs) = memInstall (memWrite m a v) (a + 1) vs := rfl

/-- The last byte is stored last, so where the addresses wrap onto one already written it is the one that stays. -/
theorem memInstall_append_singleton (m : Store) (a : Word) (bytes : List Byte) (v : Byte) :
    memInstall m a (bytes ++ [v]) =
      memWrite (memInstall m a bytes) (a + BitVec.ofNat 16 bytes.length) v := by
  induction bytes generalizing m a with
  | nil => simp
  | cons b bytes ih =>
    rw [List.cons_append, memInstall_cons, ih, word_add_one_add_ofNat, memInstall_cons, List.length_cons]

/-- The first byte stays where no later one wraps onto it. -/
theorem memRead_memInstall_first (m : Store) (a : Word) (v : Byte) (vs : List Byte)
    (hlen : (v :: vs).length ≤ 65536) : memRead (memInstall m a (v :: vs)) a = v := by
  rw [List.length_cons] at hlen
  have hout : ∀ k < vs.length, a ≠ a + 1 + BitVec.ofNat 16 k :=
    fun k hk => word_ne_add_one_add_ofNat a (by omega)
  rw [memInstall_cons, memRead_memInstall_outside _ _ _ _ hout, memRead_memWrite_self]

/-- At most 65536 installed bytes read back: the first is not overwritten, and the others are installed behind it. -/
theorem memBytes_memInstall (m : Store) (a : Word) (bytes : List Byte) (hlen : bytes.length ≤ 65536) :
    memBytes (memInstall m a bytes) a bytes.length = bytes := by
  induction bytes generalizing m a with
  | nil => rfl
  | cons v vs ih =>
    have hfirst := memRead_memInstall_first m a v vs hlen
    have hrest := ih (memWrite m a v) (a + 1) (Nat.le_of_succ_le hlen)
    rw [List.length_cons, memBytes, hfirst, memInstall_cons, hrest]

/-- Settles O6, from the rule for one more byte, the bytes read back, and the frame of `memInstall`. -/
theorem installWritesInOrder : Obligations.InstallWritesInOrder :=
  ⟨fun m a bytes v => ⟨memInstall_nil m a, memInstall_append_singleton m a bytes v⟩,
    memBytes_memInstall, memRead_memInstall_outside⟩

end Sys2Proof.Proofs
end

section
/-! PROOFS. The decoder's pages after 0xCB, 0xED, 0xDD and 0xFD, and that every byte sequence is decided
(30_encoding.md R117 to R122). -/

namespace Sys2Proof.Proofs

open Sys2Proof.Laws

/-! ### Which bytes have a page of their own -/

theorem decode_cb (rest : List Byte) : decode (0xCB :: rest) = decodeCB rest := rfl

theorem decode_ed (rest : List Byte) : decode (0xED :: rest) = decodeED rest := rfl

theorem decode_dd (rest : List Byte) : decode (0xDD :: rest) = decodeDD rest := rfl

theorem decode_fd (rest : List Byte) : decode (0xFD :: rest) = decodeFD rest := rfl

/-! ### The page after 0xCB (R119) -/

/-- The field x is 1 exactly in the bytes 0x40 to 0x7F. -/
theorem opX_eq_one_iff (op : Byte) : opX op = 1 ↔ 0x40 ≤ op.toNat ∧ op.toNat ≤ 0x7F := by
  have hlt := op.isLt
  have hone : (1 : BitVec 2).toNat = 1 := rfl
  rw [opX, ← BitVec.toNat_inj, BitVec.extractLsb'_toNat, Nat.shiftRight_eq_div_pow, hone]
  omega

theorem decodeCB_of_field {op2 : Byte} {r : Reg8} (rest : List Byte) (hx : opX op2 = 1)
    (hr : reg8OfField (opZ op2) = some r) : decodeCB (op2 :: rest) = .ok (.bitR (opY op2) r, rest) := by
  simp [decodeCB, hx, hr]

theorem decodeCB_of_six {op2 : Byte} (rest : List Byte) (hx : opX op2 = 1) (hz : opZ op2 = 6) :
    decodeCB (op2 :: rest) = .ok (.bitHl (opY op2), rest) := by
  simp [decodeCB, hx, reg8OfField_eq_none.2 hz]

theorem decodeCB_illegal {op2 : Byte} (rest : List Byte) (hx : opX op2 ≠ 1) :
    decodeCB (op2 :: rest) = .error (.illegal [0xCB, op2]) :=
  if_neg hx

/-- A field other than 6 names a register. -/
theorem exists_reg8OfField {v : BitVec 3} (h : v ≠ 6) : ∃ r, reg8OfField v = some r :=
  Option.ne_none_iff_exists'.1 fun hnone => h (reg8OfField_eq_none.1 hnone)

/-- Settles O9: the range of the second byte is its field x = 1, and within it the field z tells the memory operand
from a register. -/
theorem cbPageIsBitTest : Obligations.CbPageIsBitTest := by
  intro op2 rest
  rw [decode_cb]
  split
  next hrange =>
    have hx : opX op2 = 1 := (opX_eq_one_iff op2).2 hrange
    split
    next hz => exact decodeCB_of_six rest hx hz
    next hz =>
      obtain ⟨r, hr⟩ := exists_reg8OfField hz
      exact ⟨r, fieldOfReg8_reg8OfField hr, decodeCB_of_field rest hx hr⟩
  next hrange => exact decodeCB_illegal rest fun hx => hrange ((opX_eq_one_iff op2).1 hx)

/-! ### The page after 0xED (R120) -/

theorem decodeED_adcHl {op2 : Byte} (rest : List Byte) (h : op2 = 0x4A ∨ op2 = 0x5A ∨ op2 = 0x6A ∨ op2 = 0x7A) :
    decodeED (op2 :: rest) = .ok (.adcHlSs (pairOfField (opP op2)), rest) :=
  if_pos h

theorem decodeED_illegal {op2 : Byte} (rest : List Byte)
    (h : ¬(op2 = 0x4A ∨ op2 = 0x5A ∨ op2 = 0x6A ∨ op2 = 0x7A)) :
    decodeED (op2 :: rest) = .error (.illegal [0xED, op2]) :=
  if_neg h

/-- Settles O10: the pair of the second byte's field p has that field. -/
theorem edPageIsAdcHl : Obligations.EdPageIsAdcHl := by
  intro op2 rest
  rw [decode_ed]
  split
  next h => exact ⟨pairOfField (opP op2), fieldOfPair_pairOfField _, decodeED_adcHl rest h⟩
  next h => exact decodeED_illegal rest h

/-! ### The pages after 0xDD and 0xFD (R121) -/

/-- The page after 0xDD or 0xFD: one page but for its first byte and the index register its instructions name. -/
def indexPage (op1 : Byte) (ldNn : Word → Instr) (add adc and : Byte → Instr) (op2 : Byte)
    (rest : List Byte) : DecodeResult :=
  if op2 = 0x21 then decodeImm16 ldNn rest
  else if op2 = 0x86 then decodeImm8 add rest
  else if op2 = 0x8E then decodeImm8 adc rest
  else if op2 = 0xA6 then decodeImm8 and rest
  else .error (.illegal [op1, op2])

theorem decodeDD_cons (op2 : Byte) (rest : List Byte) :
    decodeDD (op2 :: rest) = indexPage 0xDD .ldIxNn .addAIx .adcAIx .andIx op2 rest := rfl

theorem decodeFD_cons (op2 : Byte) (rest : List Byte) :
    decodeFD (op2 :: rest) = indexPage 0xFD .ldIyNn .addAIy .adcAIy .andIy op2 rest := rfl

theorem indexPage_illegal (op1 : Byte) (ldNn : Word → Instr) (add adc and : Byte → Instr) {op2 : Byte}
    (rest : List Byte) (hld : op2 ≠ 0x21) (hadd : op2 ≠ 0x86) (hadc : op2 ≠ 0x8E) (hand : op2 ≠ 0xA6) :
    indexPage op1 ldNn add adc and op2 rest = .error (.illegal [op1, op2]) := by
  rw [indexPage, if_neg hld, if_neg hadd, if_neg hadc, if_neg hand]

/-- Settles O11: each listed byte is evaluated, and the two pages refuse every other one alike. -/
theorem indexPages : Obligations.IndexPages := by
  refine ⟨fun lo hi d rest => ⟨rfl, rfl, rfl, rfl, rfl, rfl, rfl, rfl⟩, fun op2 rest hld hadd hadc hand => ⟨?_, ?_⟩⟩
  · rw [decode_dd, decodeDD_cons, indexPage_illegal _ _ _ _ _ rest hld hadd hadc hand]
  · rw [decode_fd, decodeFD_cons, indexPage_illegal _ _ _ _ _ rest hld hadd hadc hand]

/-! ### Every byte sequence is decided (R122) -/

/-- A verdict on `bytes`: a well-formed instruction, or Illegal by the first one or two of them. -/
def Decided (bytes : List Byte) (verdict : DecodeResult) : Prop :=
  (∃ i rest, verdict = .ok (i, rest) ∧ i.wellFormed = true) ∨
    ∃ n, (n = 1 ∨ n = 2) ∧ verdict = .error (.illegal (bytes.take n))

section
variable {bytes : List Byte}

theorem decided_ok {i : Instr} (rest : List Byte) (hwf : i.wellFormed = true) : Decided bytes (.ok (i, rest)) :=
  .inl ⟨i, rest, rfl, hwf⟩

theorem decided_decodeImm8 {k : Byte → Instr} (hwf : ∀ n, (k n).wellFormed = true) (n : Byte) (rest : List Byte) :
    Decided bytes (decodeImm8 k (n :: rest)) :=
  decided_ok rest (hwf n)

theorem decided_decodeImm16 {k : Word → Instr} (hwf : ∀ nn, (k nn).wellFormed = true) (lo hi : Byte)
    (rest : List Byte) : Decided bytes (decodeImm16 k (lo :: hi :: rest)) :=
  decided_ok rest (hwf (joinBytes hi lo))

end

theorem decided_illegal_one (op : Byte) (rest : List Byte) : Decided (op :: rest) (.error (.illegal [op])) :=
  .inr ⟨1, .inl rfl, rfl⟩

theorem decided_illegal_two (op op2 : Byte) (rest : List Byte) :
    Decided (op :: op2 :: rest) (.error (.illegal [op, op2])) :=
  .inr ⟨2, .inr rfl, rfl⟩

theorem decided_decodeCB (op2 : Byte) (rest : List Byte) :
    Decided (0xCB :: op2 :: rest) (decodeCB (op2 :: rest)) := by
  by_cases hx : opX op2 = 1
  · by_cases hz : opZ op2 = 6
    · rw [decodeCB_of_six rest hx hz]; exact decided_ok rest rfl
    · obtain ⟨r, hr⟩ := exists_reg8OfField hz
      rw [decodeCB_of_field rest hx hr]; exact decided_ok rest rfl
  · rw [decodeCB_illegal rest hx]; exact decided_illegal_two ..

theorem decided_decodeED (op2 : Byte) (rest : List Byte) :
    Decided (0xED :: op2 :: rest) (decodeED (op2 :: rest)) := by
  by_cases h : op2 = 0x4A ∨ op2 = 0x5A ∨ op2 = 0x6A ∨ op2 = 0x7A
  · rw [decodeED_adcHl rest h]; exact decided_ok rest rfl
  · rw [decodeED_illegal rest h]; exact decided_illegal_two ..

theorem decided_indexPage (op1 : Byte) {ldNn : Word → Instr} {add adc and : Byte → Instr}
    (hld : ∀ nn, (ldNn nn).wellFormed = true) (hadd : ∀ d, (add d).wellFormed = true)
    (hadc : ∀ d, (adc d).wellFormed = true) (hand : ∀ d, (and d).wellFormed = true) (op2 b c : Byte)
    (rest : List Byte) :
    Decided (op1 :: op2 :: b :: c :: rest)
      (indexPage op1 ldNn add adc and op2 (b :: c :: rest)) := by
  unfold indexPage
  split_ifs
  · exact decided_decodeImm16 hld ..
  · exact decided_decodeImm8 hadd ..
  · exact decided_decodeImm8 hadc ..
  · exact decided_decodeImm8 hand ..
  · exact decided_illegal_two ..

/-- Of the bytes with x = 0 and z = 6, all but 0x36 and 0x3E are `LD r,n` of a register other than A. -/
theorem ldRN_register {op : Byte} (hx : opX op = 0) (hz : opZ op = 6) (hmem : op ≠ 0x36) (ha : op ≠ 0x3E) :
    ∃ r, reg8OfField (opY op) = some r ∧ r ≠ .a := by
  have hop : opcodeXYZ 0 (opY op) 6 = op := by simpa [hx, hz] using opcodeXYZ_fields op
  have hy : opY op ≠ 6 := fun h => hmem (by rw [← hop, h]; rfl)
  obtain ⟨r, hr⟩ := exists_reg8OfField hy
  refine ⟨r, hr, fun hra => ha ?_⟩
  rw [← hop, ← fieldOfReg8_reg8OfField hr, hra]
  rfl

theorem decided_decodeX0 {op : Byte} (hx : opX op = 0) (b c : Byte) (rest : List Byte) :
    Decided (op :: b :: c :: rest) (decodeX0 op (b :: c :: rest)) := by
  rcases decodeX0_cases op (b :: c :: rest) with ⟨-, h⟩ | ⟨-, h⟩ | ⟨-, h⟩ | ⟨-, h⟩ | ⟨-, h⟩ | ⟨-, h⟩ | ⟨-, h⟩ |
    ⟨hmem, ha, hz, h⟩ | ⟨-, -, h⟩ | ⟨-, -, h⟩ | ⟨-, -, -, -, -, -, -, h⟩
  · rw [h]; exact decided_ok _ rfl
  · rw [h]; exact decided_ok _ rfl
  · rw [h]; exact decided_decodeImm8 (fun _ => rfl) ..
  · rw [h]; exact decided_decodeImm8 (fun _ => rfl) ..
  · rw [h]; exact decided_decodeImm8 (fun _ => rfl) ..
  · rw [h]; exact decided_decodeImm8 (fun _ => rfl) ..
  · rw [h]; exact decided_decodeImm8 (fun _ => rfl) ..
  · obtain ⟨r, hr, hra⟩ := ldRN_register hx hz hmem ha
    rw [h r hr]
    exact decided_decodeImm8 (k := .ldRN r) (fun _ => decide_eq_true hra) ..
  · rw [h]; exact decided_decodeImm16 (fun _ => rfl) ..
  · rw [h]; exact decided_ok _ rfl
  · rw [h]; exact decided_illegal_one ..

theorem decided_decodeX1 (op : Byte) (rest : List Byte) : Decided (op :: rest) (decodeX1 op rest) := by
  unfold decodeX1
  split <;> exact decided_ok rest rfl

theorem decided_decodeX2 (op : Byte) (rest : List Byte) : Decided (op :: rest) (decodeX2 op rest) := by
  rcases decodeX2_cases op rest with ⟨-, i, h, hi⟩ | ⟨-, i, h, hi⟩ | ⟨-, i, h, hi⟩ | ⟨-, -, -, h⟩ <;> rw [h]
  · rcases hi with ⟨r, -, rfl⟩ | ⟨-, rfl⟩ <;> exact decided_ok rest rfl
  · rcases hi with ⟨r, -, rfl⟩ | ⟨-, rfl⟩ <;> exact decided_ok rest rfl
  · rcases hi with ⟨r, -, rfl⟩ | ⟨-, rfl⟩ <;> exact decided_ok rest rfl
  · exact decided_illegal_one ..

theorem decided_decodeX3 (op b c d : Byte) (rest : List Byte) :
    Decided (op :: b :: c :: d :: rest) (decodeX3 op (b :: c :: d :: rest)) := by
  rcases decodeX3_cases op (b :: c :: d :: rest) with ⟨rfl, h⟩ | ⟨rfl, h⟩ | ⟨rfl, h⟩ | ⟨rfl, h⟩ | ⟨rfl, h⟩ | ⟨rfl, h⟩ |
    ⟨rfl, h⟩ | ⟨rfl, h⟩ | ⟨rfl, h⟩ | ⟨rfl, h⟩ | ⟨-, -, -, -, -, -, -, -, -, -, h⟩ <;> rw [h]
  · exact decided_decodeImm16 (fun _ => rfl) ..
  · exact decided_decodeCB ..
  · exact decided_decodeImm8 (fun _ => rfl) ..
  · exact decided_ok _ rfl
  · exact decided_decodeImm8 (fun _ => rfl) ..
  · exact decided_indexPage 0xDD (fun _ => rfl) (fun _ => rfl) (fun _ => rfl) (fun _ => rfl) ..
  · exact decided_ok _ rfl
  · exact decided_decodeED ..
  · exact decided_indexPage 0xFD (fun _ => rfl) (fun _ => rfl) (fun _ => rfl) (fun _ => rfl) ..
  · exact decided_decodeImm8 (fun _ => rfl) ..
  · exact decided_illegal_one ..

theorem decided_decode (op b c d : Byte) (rest : List Byte) :
    Decided (op :: b :: c :: d :: rest) (decode (op :: b :: c :: d :: rest)) := by
  rcases decode_cons op (b :: c :: d :: rest) with ⟨hx, h⟩ | ⟨-, h⟩ | ⟨-, h⟩ | ⟨-, h⟩ <;> rw [h]
  · exact decided_decodeX0 hx ..
  · exact decided_decodeX1 ..
  · exact decided_decodeX2 ..
  · exact decided_decodeX3 ..

/-- Settles O14: with three bytes after the first, each page of the decoder reaches a verdict. -/
theorem everyByteSequenceIsDecided : Obligations.EveryByteSequenceIsDecided := by
  intro bytes hlen
  match bytes, hlen with
  | op :: b :: c :: d :: rest, _ => exact decided_decode op b c d rest

end Sys2Proof.Proofs
end

section
/-! PROOFS. What a step on an Illegal encoding does (30_encoding.md R123, 60_exceptions.md R384). -/

namespace Sys2Proof.Proofs

open Sys2Proof.Machine Sys2Proof.Laws Sys2Proof.Safety

/-- Where the CPU is the next mover and no fault is recorded, the step is the CPU's. -/
theorem step_of_cpuRuns {s : State} (h : CpuRuns s) : step s = cpuStep (takeMove s) := by
  obtain ⟨hfault, hcpu, -, -⟩ := h
  rw [step_of_no_fault hfault, hcpu]
  rfl

/-- A running CPU that fetches no instruction makes the record of an Illegal encoding. -/
theorem cpuStep_of_fetch_error {s : State} {e : DecodeError} (hended : s.driver.ended = false)
    (hbudget : s.driver.budget ≠ some s.driver.count) (hfetch : fetchDecode s = .error e) :
    cpuStep s = .next (s.countInstr.illegal (illegalBytes e)) := by
  simp [cpuStep, cpuEnabled, budgetUsed, hended, hbudget, hfetch]

theorem fetchDecode_of_decode_error {s : State} {e : DecodeError} (h : decode (memBytes s.mem s.pc 4) = .error e) :
    fetchDecode s = .error e := by
  rw [fetchDecode, State.fetchWindow, h]
  rfl

/-- The step on an Illegal encoding. -/
theorem step_of_illegal {s : State} {bytes : List Byte} (hruns : CpuRuns s)
    (h : decode (memBytes s.mem s.pc 4) = .error (.illegal bytes)) : step s = .next ((started s).illegal bytes) := by
  have ⟨_, _, hended, hbudget⟩ := hruns
  rw [step_of_cpuRuns hruns]
  exact cpuStep_of_fetch_error (s := takeMove s) hended hbudget (fetchDecode_of_decode_error h)

/-- Where no fault is recorded yet, an Illegal encoding's fault is the one recorded. -/
theorem illegal_fault {s : State} (bytes : List Byte) (h : s.driver.fault = none) :
    (s.illegal bytes).driver.fault = some (.illegalOpcode s.pc bytes) := by
  simp [State.illegal, h]

/-- Settles O17: the step only makes the record, in the state that has counted the instruction, and the recorded fault
is what the step after it answers. -/
theorem illegalEncodingIsFatal : Obligations.IllegalEncodingIsFatal := by
  intro s bytes hruns hdecode
  have ⟨hnone, _⟩ := hruns
  have hfault : ((started s).illegal bytes).driver.fault = some (.illegalOpcode s.pc bytes) :=
    illegal_fault bytes hnone
  exact ⟨(started s).illegal bytes, step_of_illegal hruns hdecode, rfl, ⟨rfl, rfl, rfl, rfl⟩, rfl, fun _ => rfl, rfl,
    rfl, hfault, rfl, step_of_fault hfault⟩

end Sys2Proof.Proofs
end

section
/-! PROOFS. What the control instructions do (40_control.md R151 to R157). -/

namespace Sys2Proof.Proofs

open Sys2Proof.Machine Sys2Proof.Laws Sys2Proof.Safety

/-! ### Addresses with a signed displacement (R153, 20_memory.md R88) -/

/-- The two's-complement reading is the signed value. -/
theorem s8_eq_toInt (v : Byte) : s8 v = v.toInt := by
  rw [s8, BitVec.toInt_eq_toNat_cond]
  split <;> split <;> omega

/-- Adding the sign-extended displacement is adding the signed displacement modulo 65536. -/
theorem add_sext16 (w : Word) (e : Byte) : w + sext16 e = BitVec.ofInt 16 ((w.toNat : Int) + s8 e) := by
  rw [s8_eq_toInt, BitVec.ofInt_add, BitVec.ofInt_natCast, BitVec.ofNat_toNat, BitVec.setWidth_eq]
  rfl

theorem relTarget_eq_jumpTarget (w : Word) (e : Byte) : relTarget w e = jumpTarget w e := add_sext16 w e

/-! ### Instructions that write only PC -/

theorem jumpRelative_eq_setPc (s : State) (taken : Bool) (e : Byte) :
    s.jumpRelative taken e = s.setPc (if taken = true then jumpTarget (s.pc + 2) e else s.pc + 2) := by
  cases taken with
  | false => rfl
  | true => rw [if_pos rfl, ← relTarget_eq_jumpTarget]; rfl

theorem exec_nop (s : State) : exec .nop s = .next (s.setPc (s.pc + 1)) := rfl

theorem exec_jpNn (nn : Word) (s : State) : exec (.jpNn nn) s = .next (s.setPc nn) := rfl

theorem exec_jrE (e : Byte) (s : State) : exec (.jrE e) s = .next (s.setPc (jumpTarget (s.pc + 2) e)) :=
  congrArg Host.Outcome.next (jumpRelative_eq_setPc s true e)

theorem exec_jrNzE (e : Byte) (s : State) :
    exec (.jrNzE e) s =
      .next (s.setPc (if flagZ s.main.f = false then jumpTarget (s.pc + 2) e else s.pc + 2)) := by
  have h : exec (.jrNzE e) s = .next (s.jumpRelative (!flagZ s.main.f) e) := rfl
  simpa only [jumpRelative_eq_setPc, Bool.not_eq_true'] using h

theorem exec_jrZE (e : Byte) (s : State) :
    exec (.jrZE e) s =
      .next (s.setPc (if flagZ s.main.f = true then jumpTarget (s.pc + 2) e else s.pc + 2)) :=
  congrArg Host.Outcome.next (jumpRelative_eq_setPc s (flagZ s.main.f) e)

theorem onlyR8_setPc (s : State) (w : Word) : OnlyR8 [] s (s.setPc w) :=
  ⟨fun _ _ => rfl, ⟨rfl, rfl, rfl, rfl⟩, fun _ => rfl, rfl, rfl, rfl, rfl, rfl, rfl, rfl, rfl⟩

/-- The frame of every instruction that answers a write of PC alone. -/
theorem exists_next_of_setPc {i : Instr} {s : State} {w : Word} (h : exec i s = .next (s.setPc w)) :
    ∃ t, exec i s = .next t ∧ t.pc = w ∧ t.main.f = s.main.f ∧ OnlyR8 [] s t :=
  ⟨s.setPc w, h, setPc_pc s w, rfl, onlyR8_setPc s w⟩

/-- Settles O20: NOP only writes PC + 1 to PC. -/
theorem nopOnlyAdvances : Obligations.NopOnlyAdvances :=
  ⟨fun _ => rfl, fun s => exists_next_of_setPc (exec_nop s)⟩

/-- Settles O22: each jump only writes PC, and the sign-extended displacement is the signed one modulo 65536. -/
theorem relativeJumps : Obligations.RelativeJumps :=
  fun s e => ⟨fun _ => rfl, fun _ => rfl, fun _ => rfl, exists_next_of_setPc (exec_jrE e s),
    exists_next_of_setPc (exec_jrNzE e s), exists_next_of_setPc (exec_jrZE e s)⟩

theorem decode_jpNn (lo hi : Byte) (rest : List Byte) :
    decode (0xC3 :: lo :: hi :: rest) = .ok (.jpNn (joinBytes hi lo), rest) := rfl

/-- The address follows the opcode byte low byte first. -/
theorem encodedAs_jpNn (nn : Word) : EncodedAs (.jpNn nn) [0xC3, loByte nn, hiByte nn] := by
  intro rest
  have h := decode_jpNn (loByte nn) (hiByte nn) rest
  rwa [joinBytes_hi_lo] at h

/-- Settles O23: JP nn only writes PC, and its operand bytes join to nn. -/
theorem absoluteJump : Obligations.AbsoluteJump :=
  fun s nn => ⟨encodedAs_jpNn nn, exists_next_of_setPc (exec_jpNn nn s)⟩

/-! ### HALT and the next run -/

theorem exec_halt (s : State) : exec .halt s = .next (s.advance 1).endRun := rfl

/-- A call of `run` takes up an ended run. -/
theorem hostStep_run_of_ended {s : State} (budget : Nat) (h : s.driver.ended = true) :
    hostStep s (.run budget) =
      { s with driver := { s.driver with ended := false, count := 0, budget := some budget } } :=
  if_pos h

/-- Settles O21: HALT advances PC and ends the run, and a call of `run` after it keeps PC and enables the CPU. -/
theorem haltStopsAfterItsByte : Obligations.HaltStopsAfterItsByte := by
  refine ⟨fun _ => rfl, fun s budget => ?_⟩
  have hrun := hostStep_run_of_ended (s := (s.advance 1).endRun) budget rfl
  exact ⟨(s.advance 1).endRun, exec_halt s, rfl, rfl, ⟨rfl, rfl, rfl, rfl⟩, fun _ => rfl, rfl, rfl, rfl, rfl, rfl, rfl,
    rfl, rfl, by rw [hrun], by rw [hrun]; rfl⟩

end Sys2Proof.Proofs
end

section
/-! PROOFS. What the load and exchange instructions do (41_load_exchange.md R180 to R191). -/

namespace Sys2Proof.Proofs

open Sys2Proof.Machine Sys2Proof.Laws Sys2Proof.Safety

/-! ### Frames -/

/-- A write of the CPU's registers and memory alone leaves everything outside them as it was. -/
theorem sameOutside_of_cpu_write (s : State) (main alt : Bank) (ix iy sp pc : Word) (mem : Store) :
    SameOutside s { s with main := main, alt := alt, ix := ix, iy := iy, sp := sp, pc := pc, mem := mem } :=
  ⟨rfl, rfl, rfl, rfl, rfl, rfl, rfl, rfl⟩

/-- The frame of an instruction that advances PC and replaces the main set. -/
theorem onlyR8_advance_main {s : State} {written : List Reg8} {k : Bank} (len : Nat)
    (h : ∀ r, r ∉ written → k.get r = s.main.get r) : OnlyR8 written s { s.advance len with main := k } :=
  ⟨h, ⟨rfl, rfl, rfl, rfl⟩, fun _ => rfl, sameOutside_of_cpu_write ..⟩

/-! ### The 8-bit loads into a register (R180, R181, R183, R184) -/

theorem exec_ldAN (n : Byte) (s : State) : exec (.ldAN n) s = .next ((s.advance 2).setR8 .a n) := rfl

theorem exec_ldRN (dst : Reg8) (n : Byte) (s : State) :
    exec (.ldRN dst n) s = .next ((s.advance 2).setR8 dst n) := rfl

theorem exec_ldRR (dst src : Reg8) (s : State) :
    exec (.ldRR dst src) s = .next ((s.advance 1).setR8 dst (s.getR8 src)) := rfl

/-- The address is the HL the instruction starts with, also where the destination is H or L. -/
theorem exec_ldRHl (dst : Reg8) (s : State) :
    exec (.ldRHl dst) s = .next ((s.advance 1).setR8 dst (memRead s.mem (s.main.h ++ s.main.l))) := rfl

theorem onlyR8_advance_setR8 (s : State) (len : Nat) (r : Reg8) (v : Byte) :
    OnlyR8 [r] s ((s.advance len).setR8 r v) :=
  onlyR8_advance_main len fun _ hq => bank_get_set_ne s.main v (List.ne_of_not_mem_cons hq)

/-- What every instruction does that advances PC and writes one 8-bit register. -/
theorem exists_next_of_setR8 {i : Instr} {s : State} {len : Nat} {r : Reg8} {v : Byte}
    (h : exec i s = .next ((s.advance len).setR8 r v)) :
    ∃ t, exec i s = .next t ∧ t.getR8 r = v ∧ t.pc = s.pc + BitVec.ofNat 16 len ∧ t.main.f = s.main.f ∧
      OnlyR8 [r] s t :=
  ⟨_, h, bank_get_set_self s.main r v, rfl, bank_set_f s.main r v, onlyR8_advance_setR8 s len r v⟩

/-- An opcode byte with x = 1 goes to the page of the register loads. -/
theorem decode_opcodeXYZ_one (y z : BitVec 3) (rest : List Byte) :
    decode (opcodeXYZ 1 y z :: rest) = decodeX1 (opcodeXYZ 1 y z) rest := by
  rw [decode, opX_opcodeXYZ]
  rfl

/-- The field 6 is the memory operand. -/
theorem reg8OfField_six : reg8OfField 6 = none := rfl

theorem encodedAs_ldRR (dst src : Reg8) :
    EncodedAs (.ldRR dst src) [opcodeXYZ 1 (fieldOfReg8 dst) (fieldOfReg8 src)] := by
  intro rest
  simp only [List.singleton_append, decode_opcodeXYZ_one, decodeX1, opY_opcodeXYZ, opZ_opcodeXYZ,
    reg8OfField_fieldOfReg8]

theorem encodedAs_ldRHl (dst : Reg8) : EncodedAs (.ldRHl dst) [opcodeXYZ 1 (fieldOfReg8 dst) 6] := by
  intro rest
  simp only [List.singleton_append, decode_opcodeXYZ_one, decodeX1, opY_opcodeXYZ, opZ_opcodeXYZ,
    reg8OfField_fieldOfReg8, reg8OfField_six]

theorem encodedAs_ldHlR (src : Reg8) : EncodedAs (.ldHlR src) [opcodeXYZ 1 6 (fieldOfReg8 src)] := by
  intro rest
  simp only [List.singleton_append, decode_opcodeXYZ_one, decodeX1, opY_opcodeXYZ, opZ_opcodeXYZ,
    reg8OfField_fieldOfReg8, reg8OfField_six]

/-- With A as its register the byte would be that of `LD A,n`. -/
theorem encodedAs_ldRN {dst : Reg8} (n : Byte) (hdst : dst ≠ .a) :
    EncodedAs (.ldRN dst n) [opcodeXYZ 0 (fieldOfReg8 dst) 6, n] := by
  intro rest
  cases dst with
  | a => exact absurd rfl hdst
  | b | c | d | e | h | l => rfl

/-- Settles O24: each load advances PC and writes its value to its one register. -/
theorem loadRegister : Obligations.LoadRegister :=
  fun s dst src n => ⟨fun _ => rfl, encodedAs_ldRN n, encodedAs_ldRR dst src, encodedAs_ldRHl dst,
    exists_next_of_setR8 (exec_ldAN n s), exists_next_of_setR8 (exec_ldRN dst n s),
    exists_next_of_setR8 (exec_ldRR dst src s), exists_next_of_setR8 (exec_ldRHl dst s)⟩

/-! ### The stores at HL (R182, R185) -/

theorem exec_ldHlN (n : Byte) (s : State) :
    exec (.ldHlN n) s = .next ((s.advance 2).write8 (s.main.h ++ s.main.l) n) := rfl

theorem exec_ldHlR (src : Reg8) (s : State) :
    exec (.ldHlR src) s = .next ((s.advance 1).write8 (s.main.h ++ s.main.l) (s.getR8 src)) := rfl

/-- What every instruction does that advances PC and stores one byte. -/
theorem exists_next_of_write8 {i : Instr} {s : State} {len : Nat} {w : Word} {v : Byte}
    (h : exec i s = .next ((s.advance len).write8 w v)) :
    ∃ t, exec i s = .next t ∧ memRead t.mem w = v ∧ SameMemBut w s t ∧ t.pc = s.pc + BitVec.ofNat 16 len ∧
      t.main = s.main ∧ SameOthers s t ∧ SameOutside s t :=
  ⟨_, h, memRead_memWrite_self s.mem w v, fun _ hne => memRead_memWrite_ne s.mem v hne, rfl, rfl,
    ⟨rfl, rfl, rfl, rfl⟩, sameOutside_of_cpu_write ..⟩

/-- Settles O25: each store advances PC and writes its value at HL. -/
theorem storeAtHl : Obligations.StoreAtHl :=
  fun s src n => ⟨fun _ => rfl, encodedAs_ldHlR src, exists_next_of_write8 (exec_ldHlN n s),
    exists_next_of_write8 (exec_ldHlR src s)⟩

/-! ### The 16-bit loads (R186, R187, R188) -/

theorem exec_ldDdNn (p : Pair) (nn : Word) (s : State) :
    exec (.ldDdNn p nn) s = .next ((s.advance 3).setPair p nn) := rfl

theorem exec_ldIxNn (nn : Word) (s : State) : exec (.ldIxNn nn) s = .next { s.advance 4 with ix := nn } := rfl

theorem exec_ldIyNn (nn : Word) (s : State) : exec (.ldIyNn nn) s = .next { s.advance 4 with iy := nn } := rfl

theorem bank_get_setBc_of_notMem (k : Bank) (w : Word) {r : Reg8} (hr : r ∉ [Reg8.b, .c]) :
    (k.setBc w).get r = k.get r := by
  cases r with
  | b | c => simp at hr
  | d | e | h | l | a => rfl

theorem bank_get_setDe_of_notMem (k : Bank) (w : Word) {r : Reg8} (hr : r ∉ [Reg8.d, .e]) :
    (k.setDe w).get r = k.get r := by
  cases r with
  | d | e => simp at hr
  | b | c | h | l | a => rfl

theorem bank_get_setHl_of_notMem (k : Bank) (w : Word) {r : Reg8} (hr : r ∉ [Reg8.h, .l]) :
    (k.setHl w).get r = k.get r := by
  cases r with
  | h | l => simp at hr
  | b | c | d | e | a => rfl

/-- A 16-bit immediate follows its opcode bytes low byte first. -/
theorem encodedAs_imm16 {k : Word → Instr} {opcode : List Byte}
    (h : ∀ lo hi rest, decode (opcode ++ lo :: hi :: rest) = .ok (k (joinBytes hi lo), rest)) (nn : Word) :
    EncodedAs (k nn) (opcode ++ [loByte nn, hiByte nn]) := by
  intro rest
  have hdecode := h (loByte nn) (hiByte nn) rest
  rwa [joinBytes_hi_lo, List.append_cons, List.append_cons, List.append_assoc opcode] at hdecode

theorem decode_ldDdNn (p : Pair) (lo hi : Byte) (rest : List Byte) :
    decode ([0b00#2 ++ fieldOfPair p ++ 0b0001#4] ++ lo :: hi :: rest) = .ok (.ldDdNn p (joinBytes hi lo), rest) := by
  cases p <;> rfl

theorem decode_ldIxNn (lo hi : Byte) (rest : List Byte) :
    decode ([0xDD, 0x21] ++ lo :: hi :: rest) = .ok (.ldIxNn (joinBytes hi lo), rest) := rfl

theorem decode_ldIyNn (lo hi : Byte) (rest : List Byte) :
    decode ([0xFD, 0x21] ++ lo :: hi :: rest) = .ok (.ldIyNn (joinBytes hi lo), rest) := rfl

/-- Settles O26: each load advances PC and writes nn, in the register pairs as its high and its low byte. -/
theorem loadWord : Obligations.LoadWord := by
  intro s nn
  refine ⟨fun p => encodedAs_imm16 (decode_ldDdNn p) nn, encodedAs_imm16 decode_ldIxNn nn,
    encodedAs_imm16 decode_ldIyNn nn, ⟨_, exec_ldDdNn .bc nn s, ?bc⟩, ⟨_, exec_ldDdNn .de nn s, ?de⟩,
    ⟨_, exec_ldDdNn .hl nn s, ?hl⟩, ⟨_, exec_ldDdNn .sp nn s, ?sp⟩, ⟨_, exec_ldIxNn nn s, ?ix⟩,
    ⟨_, exec_ldIyNn nn s, ?iy⟩⟩
  case bc => exact ⟨rfl, rfl, rfl, rfl, onlyR8_advance_main 3 fun _ => bank_get_setBc_of_notMem s.main nn⟩
  case de => exact ⟨rfl, rfl, rfl, rfl, onlyR8_advance_main 3 fun _ => bank_get_setDe_of_notMem s.main nn⟩
  case hl => exact ⟨rfl, rfl, rfl, rfl, onlyR8_advance_main 3 fun _ => bank_get_setHl_of_notMem s.main nn⟩
  case sp => exact ⟨rfl, rfl, rfl, rfl, rfl, rfl, fun _ => rfl, sameOutside_of_cpu_write ..⟩
  case ix => exact ⟨rfl, rfl, rfl, rfl, rfl, rfl, fun _ => rfl, sameOutside_of_cpu_write ..⟩
  case iy => exact ⟨rfl, rfl, rfl, rfl, rfl, rfl, fun _ => rfl, sameOutside_of_cpu_write ..⟩

/-! ### The exchanges (R189, R190, R191) -/

theorem bank_setBc_joinBytes (k : Bank) (hi lo : Byte) :
    k.setBc (joinBytes hi lo) = { k with b := hi, c := lo } := by
  rw [Bank.setBc, hiByte_joinBytes, loByte_joinBytes]

theorem bank_setDe_joinBytes (k : Bank) (hi lo : Byte) :
    k.setDe (joinBytes hi lo) = { k with d := hi, e := lo } := by
  rw [Bank.setDe, hiByte_joinBytes, loByte_joinBytes]

theorem bank_setHl_joinBytes (k : Bank) (hi lo : Byte) :
    k.setHl (joinBytes hi lo) = { k with h := hi, l := lo } := by
  rw [Bank.setHl, hiByte_joinBytes, loByte_joinBytes]

theorem bank_setAf_joinBytes (k : Bank) (hi lo : Byte) :
    k.setAf (joinBytes hi lo) = { k with a := hi, f := lo } := by
  rw [Bank.setAf, hiByte_joinBytes, loByte_joinBytes]

/-- The two sets change places but for A and F, which each set keeps. -/
theorem exec_exx (s : State) :
    exec .exx s = .next { s.advance 1 with
      main := { s.alt with a := s.main.a, f := s.main.f }
      alt := { s.main with a := s.alt.a, f := s.alt.f } } := by
  simp only [exec, execExx, Bank.bc, Bank.de, Bank.hl, bank_setBc_joinBytes, bank_setDe_joinBytes,
    bank_setHl_joinBytes]

theorem exec_exDeHl (s : State) :
    exec .exDeHl s = .next { s.advance 1 with
      main := { s.main with d := s.main.h, e := s.main.l, h := s.main.d, l := s.main.e } } := by
  simp only [exec, execExDeHl, Bank.de, Bank.hl, bank_setDe_joinBytes, bank_setHl_joinBytes]

theorem exec_exAfAf (s : State) :
    exec .exAfAf s = .next { s.advance 1 with
      main := { s.main with a := s.alt.a, f := s.alt.f }
      alt := { s.alt with a := s.main.a, f := s.main.f } } := by
  simp only [exec, execExAfAf, Bank.af, bank_setAf_joinBytes]

/-- A write of A and F leaves the other registers of its set alone. -/
theorem bank_get_with_a_f (k : Bank) (a f : Byte) {r : Reg8} (hr : r ≠ .a) :
    Bank.get { k with a := a, f := f } r = k.get r := by
  cases r with
  | a => exact absurd rfl hr
  | b | c | d | e | h | l => rfl

theorem bank_get_with_d_e_h_l (k : Bank) (d e h l : Byte) {r : Reg8} (hr : r ∉ [Reg8.d, .e, .h, .l]) :
    Bank.get { k with d := d, e := e, h := h, l := l } r = k.get r := by
  cases r with
  | d | e | h | l => simp at hr
  | b | c | a => rfl

/-- Settles O27: each exchange advances PC and writes the registers named, by the equation of its meaning. -/
theorem exchanges : Obligations.Exchanges := by
  intro s
  refine ⟨fun _ => rfl, fun _ => rfl, fun _ => rfl, ⟨_, exec_exx s, ?exx⟩, ⟨_, exec_exDeHl s, ?exDeHl⟩,
    ⟨_, exec_exAfAf s, ?exAfAf⟩⟩
  case exx =>
    exact ⟨fun _ hr => ⟨bank_get_with_a_f s.alt _ _ hr, bank_get_with_a_f s.main _ _ hr⟩, rfl, rfl, rfl, rfl, rfl,
      rfl, rfl, rfl, fun _ => rfl, sameOutside_of_cpu_write ..⟩
  case exDeHl =>
    exact ⟨rfl, rfl, rfl, rfl, rfl, rfl, onlyR8_advance_main 1 fun _ => bank_get_with_d_e_h_l s.main _ _ _ _⟩
  case exAfAf =>
    exact ⟨rfl, rfl, rfl, rfl, fun _ hr => ⟨bank_get_with_a_f s.main _ _ hr, bank_get_with_a_f s.alt _ _ hr⟩, rfl,
      rfl, rfl, rfl, fun _ => rfl, sameOutside_of_cpu_write ..⟩

end Sys2Proof.Proofs
end

section
/-! PROOFS. What the arithmetic, logic, compare and bit-test instructions do (42_arith_logic.md R220 to R240). -/

namespace Sys2Proof.Proofs

open Sys2Proof.Machine Sys2Proof.Laws Sys2Proof.Safety

/-! ### The computed flags meet the rules (R220, R221, R222, R238, R240) -/

/-- The mask of the low `k` bits keeps the remainder by `2 ^ k`. -/
theorem toNat_and_lowMask {w : Nat} {x mask : BitVec w} (k : Nat) (h : mask.toNat = 2 ^ k - 1) :
    (x &&& mask).toNat = x.toNat % 2 ^ k := by
  rw [BitVec.toNat_and, h, Nat.and_two_pow_sub_one_eq_mod]

theorem toNat_and_lowNibble (v : Byte) : (v &&& 0x0F).toNat = v.toNat % 16 := toNat_and_lowMask 4 rfl

theorem toNat_and_low12 (w : Word) : (w &&& 0x0FFF).toNat = w.toNat % 4096 := toNat_and_lowMask 12 rfl

theorem signedOverflow_byte (x : Int) : signedOverflow 8 x = true ↔ x < -128 ∨ x > 127 := by
  simp [signedOverflow]

theorem signedOverflow_word (x : Int) : signedOverflow 16 x = true ↔ x < -32768 ∨ x > 32767 := by
  simp [signedOverflow]

/-- The two's-complement reading is the signed value. -/
theorem s16_eq_toInt (w : Word) : s16 w = w.toInt := by
  rw [s16, BitVec.toInt_eq_toNat_cond]
  split <;> split <;> omega

theorem add8_rule (f a b : Byte) (cin : Bool) :
    Add8Rule f a b cin.toNat (add8 f a b cin).1 (add8 f a b cin).2 := by
  refine ⟨BitVec.toNat_ofNat .., flagS_packFlags .., ?z, ?h, ?pv, flagN_packFlags .., ?c,
    add8_keeps_unused f a b cin⟩
  case z => simp only [add8, flagZ_packFlags, decide_eq_true_eq]
  case h => simp only [add8, flagH_packFlags, decide_eq_true_eq, toNat_and_lowNibble]
  case pv => simp only [add8, flagPV_packFlags, signedOverflow_byte, s8_eq_toInt]
  case c => simp only [add8, flagC_packFlags, decide_eq_true_eq]

/-- The number of set bits, counted over the bit positions. -/
theorem popcount_eq_length_filter (v : Byte) :
    popcount v = ((List.range 8).filter fun k => v.getLsbD k).length := by
  have bit : ∀ b : Bool, b.toNat = if b = true then 1 else 0 := by decide
  simp only [← List.countP_eq_length_filter, List.range_succ, List.countP_append, List.countP_singleton,
    List.range_zero, List.countP_nil, Nat.zero_add, popcount, bit]

theorem and8_rule (f a b : Byte) : And8Rule f a b (and8 f a b).1 (and8 f a b).2 := by
  refine ⟨rfl, flagS_packFlags .., ?z, flagH_packFlags .., ?pv, flagN_packFlags .., flagC_packFlags ..,
    and8_keeps_unused f a b⟩
  case z => simp only [and8, flagZ_packFlags, decide_eq_true_eq]
  case pv => simp only [and8, flagPV_packFlags, decide_eq_true_eq, popcount_eq_length_filter]

/-- The difference on integers, narrowed, is the difference of the bytes. -/
theorem ofInt_toNat_sub_toNat (a b : Byte) : BitVec.ofInt 8 ((a.toNat : Int) - b.toNat) = a - b := by
  rw [sub_eq_add_neg, sub_eq_add_neg, BitVec.ofInt_add, BitVec.ofInt_neg, BitVec.ofInt_natCast,
    BitVec.ofInt_natCast, BitVec.ofNat_toNat, BitVec.ofNat_toNat, BitVec.setWidth_eq, BitVec.setWidth_eq]

theorem sub8flags_rule (f a b : Byte) : Sub8Rule f a b (sub8flags f a b) := by
  refine ⟨?s, ?z, ?h, ?pv, flagN_packFlags .., ?c, sub8flags_keeps_unused f a b⟩
  case s => simp only [sub8flags, flagS_packFlags, ofInt_toNat_sub_toNat]
  case z => simp only [sub8flags, flagZ_packFlags, decide_eq_true_eq, ofInt_toNat_sub_toNat, sub_eq_zero]
  case h => simp only [sub8flags, flagH_packFlags, decide_eq_true_eq, toNat_and_lowNibble]
  case pv => simp only [sub8flags, flagPV_packFlags, signedOverflow_byte, s8_eq_toInt]
  case c => simp only [sub8flags, flagC_packFlags, decide_eq_true_eq]

section
variable (f : Byte) (a b : Word) (cin full : Bool)

theorem flagH_add16 :
    flagH (add16 f a b cin full).2 = decide (a.toNat % 4096 + b.toNat % 4096 + cin.toNat ≥ 4096) := by
  cases full <;> exact flagH_packFlags ..

theorem flagN_add16 : flagN (add16 f a b cin full).2 = false := by
  cases full <;> exact flagN_packFlags ..

theorem flagC_add16 : flagC (add16 f a b cin full).2 = decide (a.toNat + b.toNat + cin.toNat ≥ 65536) := by
  cases full <;> exact flagC_packFlags ..

/-- H, N and C do not depend on `full`; S, Z and PV are those of the sum or the old ones. -/
theorem add16_rule : Add16Rule f a b cin.toNat full (add16 f a b cin full).1 (add16 f a b cin full).2 := by
  refine ⟨BitVec.toNat_ofNat .., ?h, flagN_add16 .., ?c, add16_keeps_unused f a b cin full, ?szpv⟩
  case h => simp only [flagH_add16, decide_eq_true_eq, toNat_and_low12]
  case c => simp only [flagC_add16, decide_eq_true_eq]
  case szpv =>
    cases full with
    | true => simp [add16, signedOverflow_word, s16_eq_toInt]
    | false => simp [add16]

end

theorem bitFlags_rule (f v : Byte) (k : BitVec 3) : BitRule f v k (bitFlags f v k) := by
  refine ⟨flagZ_packFlags .., flagPV_packFlags .., ?s, flagH_packFlags .., flagN_packFlags .., flagC_packFlags ..,
    bitFlags_keeps_unused f v k⟩
  case s => simp only [bitFlags, flagS_packFlags, Bool.and_eq_true, decide_eq_true_eq]

/-! ### What is written, and the frame -/

theorem bank_get_with_f (k : Bank) (f : Byte) (r : Reg8) : Bank.get { k with f := f } r = k.get r := by
  cases r <;> rfl

section
variable {i : Instr} {s : State} (len : Nat)

/-- What every instruction does that advances PC and writes A and F by a rule. -/
theorem exists_next_of_setAF {r : Byte × Byte} {rule : Byte → Byte → Prop} (hrule : rule r.1 r.2)
    (h : exec i s = .next ((s.advance len).setAF r)) :
    ∃ t, exec i s = .next t ∧ rule t.main.a t.main.f ∧ t.pc = s.pc + BitVec.ofNat 16 len ∧ OnlyR8 [.a] s t :=
  ⟨_, h, hrule, rfl,
    onlyR8_advance_main len fun _ hr => bank_get_with_a_f s.main r.1 r.2 (List.ne_of_not_mem_cons hr)⟩

/-- What every instruction does that advances PC and writes F alone by a rule. -/
theorem exists_next_of_setF {f : Byte} {rule : Byte → Prop} (hrule : rule f)
    (h : exec i s = .next ((s.advance len).setF f)) :
    ∃ t, exec i s = .next t ∧ rule t.main.f ∧ t.pc = s.pc + BitVec.ofNat 16 len ∧ OnlyR8 [] s t :=
  ⟨_, h, hrule, rfl, onlyR8_advance_main len fun q _ => bank_get_with_f s.main f q⟩

/-- What every instruction does that advances PC and writes HL and F by a rule. -/
theorem exists_next_of_setHlF {r : Word × Byte} {rule : Word → Byte → Prop} (hrule : rule r.1 r.2)
    (h : exec i s = .next ((s.advance len).setHlF r)) :
    ∃ t, exec i s = .next t ∧ rule (t.main.h ++ t.main.l) t.main.f ∧ t.pc = s.pc + BitVec.ofNat 16 len ∧
      OnlyR8 [.h, .l] s t := by
  have hhl : hiByte r.1 ++ loByte r.1 = r.1 := joinBytes_hi_lo r.1
  rw [← hhl] at hrule
  exact ⟨_, h, hrule, rfl, onlyR8_advance_main len fun q hq =>
    (bank_get_with_f (s.main.setHl r.1) r.2 q).trans (bank_get_setHl_of_notMem s.main r.1 hq)⟩

end

/-! ### The operands (IX+d) and (IY+d) (20_memory.md R88) -/

theorem readIx_eq_memRead (s : State) (d : Byte) : s.readIx d = memRead s.mem (indexTarget s.ix d) :=
  congrArg (memRead s.mem) (add_sext16 s.ix d)

theorem readIy_eq_memRead (s : State) (d : Byte) : s.readIy d = memRead s.mem (indexTarget s.iy d) :=
  congrArg (memRead s.mem) (add_sext16 s.iy d)

/-! ### ADD A, ADC A and AND (R223 to R234) -/

theorem encodedAs_addAR (r : Reg8) : EncodedAs (.addAR r) [0b10000#5 ++ fieldOfReg8 r] := by
  intro rest; cases r <;> rfl

theorem encodedAs_adcAR (r : Reg8) : EncodedAs (.adcAR r) [0b10001#5 ++ fieldOfReg8 r] := by
  intro rest; cases r <;> rfl

theorem encodedAs_andR (r : Reg8) : EncodedAs (.andR r) [0b10100#5 ++ fieldOfReg8 r] := by
  intro rest; cases r <;> rfl

section
variable {i : Instr} {s : State} {v : Byte} (len : Nat)

theorem exists_next_of_addA (h : exec i s = .next ((s.advance len).addA v)) :
    ∃ t, exec i s = .next t ∧ Add8Rule s.main.f s.main.a v 0 t.main.a t.main.f ∧
      t.pc = s.pc + BitVec.ofNat 16 len ∧ OnlyR8 [.a] s t :=
  exists_next_of_setAF len (add8_rule s.main.f s.main.a v false) h

theorem exists_next_of_adcA (h : exec i s = .next ((s.advance len).adcA v)) :
    ∃ t, exec i s = .next t ∧ Add8Rule s.main.f s.main.a v (flagC s.main.f).toNat t.main.a t.main.f ∧
      t.pc = s.pc + BitVec.ofNat 16 len ∧ OnlyR8 [.a] s t :=
  exists_next_of_setAF len (add8_rule s.main.f s.main.a v (flagC s.main.f)) h

theorem exists_next_of_andA (h : exec i s = .next ((s.advance len).andA v)) :
    ∃ t, exec i s = .next t ∧ And8Rule s.main.f s.main.a v t.main.a t.main.f ∧
      t.pc = s.pc + BitVec.ofNat 16 len ∧ OnlyR8 [.a] s t :=
  exists_next_of_setAF len (and8_rule s.main.f s.main.a v) h

end

/-- Settles O28: each form adds its operand to A by the one rule of `add8` without a carry-in. -/
theorem addToAccumulator : Obligations.AddToAccumulator := by
  intro s r d
  rw [← readIx_eq_memRead, ← readIy_eq_memRead]
  exact ⟨encodedAs_addAR r, fun _ => rfl, fun _ => rfl, fun _ => rfl, exists_next_of_addA 1 rfl,
    exists_next_of_addA 1 rfl, exists_next_of_addA 3 rfl, exists_next_of_addA 3 rfl⟩

/-- Settles O29: each form adds its operand to A by the one rule of `add8` with F.C as its carry-in. -/
theorem addWithCarryToAccumulator : Obligations.AddWithCarryToAccumulator := by
  intro s r d
  rw [← readIx_eq_memRead, ← readIy_eq_memRead]
  exact ⟨encodedAs_adcAR r, fun _ => rfl, fun _ => rfl, fun _ => rfl, exists_next_of_adcA 1 rfl,
    exists_next_of_adcA 1 rfl, exists_next_of_adcA 3 rfl, exists_next_of_adcA 3 rfl⟩

/-- Settles O30: each form takes its operand to A by the one rule of `and8`. -/
theorem andAccumulator : Obligations.AndAccumulator := by
  intro s r d
  rw [← readIx_eq_memRead, ← readIy_eq_memRead]
  exact ⟨encodedAs_andR r, fun _ => rfl, fun _ => rfl, fun _ => rfl, exists_next_of_andA 1 rfl,
    exists_next_of_andA 1 rfl, exists_next_of_andA 3 rfl, exists_next_of_andA 3 rfl⟩

/-! ### CP n (R235) -/

/-- Settles O31: CP n writes F alone, by the rule of `sub8flags`. -/
theorem compareImmediate : Obligations.CompareImmediate :=
  fun s n => ⟨fun _ => rfl, exists_next_of_setF 2 (sub8flags_rule s.main.f s.main.a n) rfl⟩

/-! ### ADD HL,ss and ADC HL,ss (R236, R237) -/

theorem encodedAs_addHlSs (p : Pair) : EncodedAs (.addHlSs p) [0b00#2 ++ fieldOfPair p ++ 0b1001#4] := by
  intro rest; cases p <;> rfl

theorem encodedAs_adcHlSs (p : Pair) : EncodedAs (.adcHlSs p) [0xED, 0b01#2 ++ fieldOfPair p ++ 0b1010#4] := by
  intro rest; cases p <;> rfl

/-- Settles O32: both instructions write HL and F by the rule of `add16`, on the pair their operand names. -/
theorem sixteenBitAddition : Obligations.SixteenBitAddition := by
  intro s p operand hoperand
  obtain rfl : operand = s.getPair p := by rw [hoperand]; cases p <;> rfl
  exact ⟨encodedAs_addHlSs p, encodedAs_adcHlSs p,
    exists_next_of_setHlF 1 (add16_rule s.main.f s.main.hl (s.getPair p) false false) rfl,
    exists_next_of_setHlF 2 (add16_rule s.main.f s.main.hl (s.getPair p) (flagC s.main.f) true) rfl⟩

/-! ### BIT b,r and BIT b,(HL) (R238, R239) -/

theorem encodedAs_bitR (k : BitVec 3) (r : Reg8) : EncodedAs (.bitR k r) [0xCB, opcodeXYZ 1 k (fieldOfReg8 r)] := by
  intro rest
  have hz : reg8OfField (opZ (opcodeXYZ 1 k (fieldOfReg8 r))) = some r := by simp
  have h := decodeCB_of_field rest (opX_opcodeXYZ 1 k _) hz
  rwa [opY_opcodeXYZ] at h

theorem encodedAs_bitHl (k : BitVec 3) : EncodedAs (.bitHl k) [0xCB, opcodeXYZ 1 k 6] := by
  intro rest
  have h := decodeCB_of_six rest (opX_opcodeXYZ 1 k 6) (opZ_opcodeXYZ 1 k 6)
  rwa [opY_opcodeXYZ] at h

/-- Settles O33: both instructions write F alone, by the rule of `bitFlags`. -/
theorem bitTest : Obligations.BitTest :=
  fun s k r => ⟨encodedAs_bitR k r, encodedAs_bitHl k,
    exists_next_of_setF 2 (bitFlags_rule s.main.f (s.getR8 r) k) rfl,
    exists_next_of_setF 2 (bitFlags_rule s.main.f s.readHl k) rfl⟩

end Sys2Proof.Proofs
end

section
/-! PROOFS. What IN and OUT do on a port that is not mapped in their direction (43_port_io.md R270, R271, R274). -/

namespace Sys2Proof.Proofs

open Sys2Proof.Machine Sys2Proof.Laws Sys2Proof.Safety

/-! ### The mapped ports (R273) -/

theorem mem_inPorts_iff (n : Byte) : n ∈ inPorts ↔ n.toNat ∈ [1, 2, 3, 4, 11, 12, 13] := by
  simp [inPorts, ← BitVec.toNat_inj]

theorem mem_outPorts_iff (n : Byte) : n ∈ outPorts ↔ n.toNat ∈ [0, 5, 6, 7, 8, 9, 10] := by
  simp [outPorts, ← BitVec.toNat_inj]

theorem portIn_of_notMem {n : Byte} (s : State) (hn : n ∉ inPorts) : portIn n s = .error (.unmappedPort .input n) := by
  rw [mem_inPorts_iff] at hn
  unfold portIn
  split
  case h_8 => rfl
  all_goals rename_i hport; simp [hport] at hn

theorem portOut_of_notMem {n : Byte} (v : Byte) (s : State) (hn : n ∉ outPorts) :
    portOut n v s = .error (.unmappedPort .output n) := by
  rw [mem_outPorts_iff] at hn
  unfold portOut
  split
  case h_8 => rfl
  all_goals rename_i hport; simp [hport] at hn

/-! ### A port instruction whose port operation faults (R274, 60_exceptions.md R380, R383) -/

theorem exec_inAN_of_error {n : Byte} {s : State} {f : Fault}
    (h : portIn n ((s.advance 2).stop (.portIn n)) = .error f) :
    exec (.inAN n) s = .next (((s.advance 2).stop (.portIn n)).raise f) := by
  simp only [exec, execInAN, h]

theorem exec_outNA_of_error {n : Byte} {s : State} {f : Fault}
    (h : portOut n s.main.a ((s.advance 2).stop (.portOut n s.main.a)) = .error f) :
    exec (.outNA n) s = .next (((s.advance 2).stop (.portOut n s.main.a)).raise f) := by
  simp only [exec, execOutNA, h]

theorem raise_fault_of_none {s : State} {f : Fault} (h : s.driver.fault = none) :
    (s.raise f).driver.fault = some f := by
  simp [h]

/-- What every instruction does that advances PC past its two bytes, stops and then faults. -/
theorem exists_next_of_stop_raise {i : Instr} {s : State} {r : StopReason} {f : Fault}
    (hfault : s.driver.fault = none) (h : exec i s = .next (((s.advance 2).stop r).raise f)) :
    ∃ t, exec i s = .next t ∧ t.driver.fault = some f ∧ t.main = s.main ∧ SameOthers s t ∧ SameMem s t ∧
      t.console = s.console ∧ t.disk = s.disk ∧ t.pc = s.pc + 2 ∧ step t = .fault f := by
  have hraised : (((s.advance 2).stop r).raise f).driver.fault = some f := raise_fault_of_none hfault
  exact ⟨_, h, hraised, rfl, ⟨rfl, rfl, rfl, rfl⟩, fun _ => rfl, rfl, rfl, rfl, step_of_fault hraised⟩

/-- Settles O50: on an unmapped port the port operation faults, and the state answered is the stopped one with that
fault recorded. -/
theorem unmappedPortsAreFatal : Obligations.UnmappedPortsAreFatal := by
  intro s n hfault
  refine ⟨fun hn => ?input, fun hn => ?output⟩
  case input => exact exists_next_of_stop_raise hfault (exec_inAN_of_error (portIn_of_notMem _ hn))
  case output => exact exists_next_of_stop_raise hfault (exec_outNA_of_error (portOut_of_notMem _ _ hn))

end Sys2Proof.Proofs
end

section
/-! PROOFS. What the console's ports do (44_console.md R303 to R306) and the ports of the disk's geometry
(45_disk.md R347). -/

namespace Sys2Proof.Proofs

open Sys2Proof.Machine Sys2Proof.Laws Sys2Proof.Safety

/-! ### A port instruction whose port operation succeeds (R270, R271) -/

theorem exec_inAN_of_ok {n v : Byte} {s u : State} (h : portIn n ((s.advance 2).stop (.portIn n)) = .ok (v, u)) :
    exec (.inAN n) s = .next (u.setR8 .a v).resume := by
  simp only [exec, execInAN, h]

theorem exec_outNA_of_ok {n : Byte} {s u : State}
    (h : portOut n s.main.a ((s.advance 2).stop (.portOut n s.main.a)) = .ok u) :
    exec (.outNA n) s = .next u.resume := by
  simp only [exec, execOutNA, h]

/-- The record of the stop and of the next run does not depend on what the port operation did. -/
theorem portStop_resume {r : StopReason} {s u : State} (hdriver : u.driver = (s.stop r).driver)
    (htick : u.tick = s.tick) : PortStop r s u.resume := by
  simp [PortStop, hdriver, htick, nextBudget]

/-- What every IN does whose port operation succeeds: the devices are those the operation leaves. -/
theorem exists_next_of_portIn {n v : Byte} {s u : State}
    (h : portIn n ((s.advance 2).stop (.portIn n)) = .ok (v, u)) :
    ∃ t, exec (.inAN n) s = .next t ∧ t.main.a = v ∧ t.console = u.console ∧ t.disk = u.disk ∧ SameMem s t ∧
      t.pc = s.pc + 2 ∧ PortKeeps [.a] s t ∧ PortStop (.portIn n) s t := by
  obtain ⟨hmain, halt, hix, hiy, hsp, hpc, hmem, hlaunch, hcon, hdisk, hsched, htick, hdriver⟩ := portIn_frame h
  have hregs : SameR8But [.a] s (u.setR8 .a v).resume := fun r hr =>
    (bank_get_set_ne u.main v (List.ne_of_not_mem_cons hr)).trans (congrArg (Bank.get · r) hmain)
  have hflags : (u.setR8 .a v).resume.main.f = s.main.f :=
    (bank_set_f u.main .a v).trans (congrArg Bank.f hmain)
  exact ⟨_, exec_inAN_of_ok h, rfl, rfl, rfl, fun a => congrArg (memRead · a) hmem, hpc,
    ⟨hregs, hflags, ⟨hix, hiy, hsp, halt⟩, hlaunch, hcon, hdisk, hsched, htick⟩, portStop_resume hdriver htick⟩

/-- What every OUT does whose port operation succeeds: the devices and memory are those the operation leaves. -/
theorem exists_next_of_portOut {n : Byte} {s u : State}
    (h : portOut n s.main.a ((s.advance 2).stop (.portOut n s.main.a)) = .ok u) :
    ∃ t, exec (.outNA n) s = .next t ∧ t.console = u.console ∧ t.disk = u.disk ∧ t.mem = u.mem ∧
      t.pc = s.pc + 2 ∧ PortKeeps [] s t ∧ PortStop (.portOut n s.main.a) s t := by
  obtain ⟨hmain, halt, hix, hiy, hsp, hpc, hlaunch, hcon, hdisk, hsched, htick, hdriver⟩ := portOut_frame h
  exact ⟨_, exec_outNA_of_ok h, rfl, rfl, rfl, hpc, ⟨fun r _ => congrArg (Bank.get · r) hmain,
    congrArg Bank.f hmain, ⟨hix, hiy, hsp, halt⟩, hlaunch, hcon, hdisk, hsched, htick⟩, portStop_resume hdriver htick⟩

/-! ### The ports -/

/-- Settles O43: each of the five port operations answers its value and the state it was given. -/
theorem inWithoutSideEffect : Obligations.InWithoutSideEffect := by
  intro s n v hport
  have hread : portIn n ((s.advance 2).stop (.portIn n)) = .ok (v, (s.advance 2).stop (.portIn n)) := by
    rcases hport with ⟨rfl, rfl⟩ | ⟨rfl, rfl⟩ | ⟨rfl, rfl⟩ | ⟨rfl, rfl⟩ | ⟨rfl, rfl⟩ <;> rfl
  obtain ⟨t, hexec, ha, hconsole, hdisk, hmem, hpc, hkeeps, hstop⟩ := exists_next_of_portIn hread
  exact ⟨t, hexec, ha, hpc, hkeeps, hmem, hconsole, hdisk, hstop⟩

/-- Settles O44: the port operation is `inChar()`, whose record update gives every console field. -/
theorem inConsoleCharacter : Obligations.InConsoleCharacter := by
  intro s
  obtain ⟨t, hexec, ha, hconsole, hdisk, hmem, hpc, hkeeps, hstop⟩ :=
    exists_next_of_portIn (n := 3) (s := s) rfl
  refine ⟨t, hexec, ha, ?_⟩
  rw [hconsole]
  exact ⟨rfl, rfl, rfl, rfl, rfl, rfl, rfl, rfl, hdisk, hmem, hpc, hkeeps, hstop⟩

/-- Settles O46: the port operation is `outChar(A)`. -/
theorem outConsoleCharacter : Obligations.OutConsoleCharacter := by
  intro s
  obtain ⟨t, hexec, hconsole, hdisk, hmem, hpc, hkeeps, hstop⟩ := exists_next_of_portOut (n := 0) (s := s) rfl
  exact ⟨t, hexec, hconsole, hdisk, fun a => congrArg (memRead · a) hmem, hpc, hkeeps, hstop⟩

end Sys2Proof.Proofs
end

section
/-! PROOFS. What the steps of the two console workers do (44_console.md R310 to R312). -/

namespace Sys2Proof.Proofs

open Sys2Proof.Machine Sys2Proof.Laws Sys2Proof.Safety

theorem step_of_moves {who : Agent} {s : State} (h : Moves who s) :
    step s = moveStep (.agent who) s.tick (takeMove s) := by
  obtain ⟨hfault, hmove⟩ := h
  rw [step_of_no_fault hfault, hmove]

theorem step_of_inputWorkerStep {s t : State} (hmoves : Moves .consoleInput s)
    (h : inputWorkerStep s.tick (takeMove s) = t) : step s = .next t := by
  rw [step_of_moves hmoves, moveStep, h]

theorem step_of_outputWorkerStep {s t : State} (hmoves : Moves .consoleOutput s)
    (h : outputWorkerStep s.tick (takeMove s) = t) : step s = .next t := by
  rw [step_of_moves hmoves, moveStep, h]

/-! ### A failure oracle's answer (00_scope.md R7) -/

/-- A next answer that is fixed is the one given, whatever the free answer would be. -/
theorem askOracle_of_nextAnswer {o : Oracle} {b : Bool} (freeAnswer : Bool) (h : NextAnswer o b) :
    ∃ o', askOracle o freeAnswer = (b, o') ∧ Asked o o' := by
  obtain ⟨answers, free⟩ := o
  rcases h with hlisted | ⟨rfl, rfl, rfl⟩
  case inl =>
    obtain ⟨rest, rfl⟩ := List.head?_eq_some_iff.mp hlisted
    exact ⟨_, rfl, rfl⟩
  case inr => exact ⟨_, rfl, rfl⟩

/-! ### The next byte of INPUT (R300) -/

theorem consoleNextInput_of_cons {c : Console} {b : Byte} {rest : List Byte} (tick : Nat)
    (h : c.input = b :: rest) : consoleNextInput c tick = some b := by
  simp only [consoleNextInput, h]

theorem consoleNextInput_of_free {c : Console} (tick : Nat) (hinput : c.input = []) (htail : c.inputTail = .free) :
    consoleNextInput c tick = Config.inputByte tick := by
  simp only [consoleNextInput, hinput, htail]

theorem consoleNextInput_of_ends {c : Console} (tick : Nat) (hinput : c.input = []) (htail : c.inputTail = .ends) :
    consoleNextInput c tick = none := by
  simp only [consoleNextInput, hinput, htail]

/-! ### The workers, by the answer of CON_FAIL -/

section
variable {tick : Nat} {s : State} {o : Oracle}

theorem inputWorkerStep_of_ended (h : s.console.inputState = .ended) : inputWorkerStep tick s = s := by
  simp [inputWorkerStep, consoleInputEnabled, h]

theorem inputWorkerStep_of_fails (hlive : s.console.inputState = .live)
    (hask : askOracle s.conFail (Config.conFail tick) = (true, o)) :
    inputWorkerStep tick s = { s with conFail := o }.raise .consoleIOFailure := by
  simp [inputWorkerStep, consoleInputEnabled, hlive, hask]

theorem inputWorkerStep_of_byte {b : Byte} (hlive : s.console.inputState = .live)
    (hask : askOracle s.conFail (Config.conFail tick) = (false, o))
    (hbyte : consoleNextInput s.console tick = some b) :
    inputWorkerStep tick s = { s with conFail := o, console := consoleDeliver s.console b } := by
  simp [inputWorkerStep, consoleInputEnabled, hlive, hask, hbyte]

theorem inputWorkerStep_of_end (hlive : s.console.inputState = .live)
    (hask : askOracle s.conFail (Config.conFail tick) = (false, o))
    (hend : consoleNextInput s.console tick = none) :
    inputWorkerStep tick s =
      if s.launch.conEofAborts then { s with conFail := o }.raise .consoleIOFailure
      else { s with conFail := o, console := { s.console with inputState := .ended } } := by
  simp [inputWorkerStep, consoleInputEnabled, hlive, hask, hend]

theorem outputWorkerStep_of_none (h : s.console.outPending = none) : outputWorkerStep tick s = s := by
  simp [outputWorkerStep, h]

theorem outputWorkerStep_of_fails {v : Byte} (hpending : s.console.outPending = some v)
    (hask : askOracle s.conFail (Config.conFail tick) = (true, o)) :
    outputWorkerStep tick s = { s with conFail := o }.raise .consoleIOFailure := by
  simp [outputWorkerStep, hpending, hask]

theorem outputWorkerStep_of_pending {v : Byte} (hpending : s.console.outPending = some v)
    (hask : askOracle s.conFail (Config.conFail tick) = (false, o)) :
    outputWorkerStep tick s = { s with conFail := o, console := consoleFlush s.console v } := by
  simp [outputWorkerStep, hpending, hask]

end

/-! ### The steps -/

/-- A write of the console, the driver and CON_FAIL is all that a console worker's step may do. -/
theorem consoleWorkerKeeps_takeMove (s : State) (c : Console) (d : Driver) (o : Oracle) :
    ConsoleWorkerKeeps s { takeMove s with console := c, driver := d, conFail := o } :=
  ⟨⟨rfl, ⟨rfl, rfl, rfl, rfl⟩, rfl, rfl, rfl, rfl, rfl⟩, rfl, rfl⟩

theorem raise_driver_of_none {s : State} (f : Fault) (h : s.driver.fault = none) :
    (s.raise f).driver = { s.driver with fault := some f } := by
  simp [h]

section
variable {s : State}

/-- A byte of INPUT arrives (R310). -/
theorem exists_step_of_byte {b : Byte} (hmoves : Moves .consoleInput s) (hanswer : NextAnswer s.conFail false)
    (hlive : s.console.inputState = .live) (hbyte : consoleNextInput s.console s.tick = some b) :
    ∃ t, step s = .next t ∧ t.console = consoleDeliver s.console b ∧ t.driver = s.driver ∧
      Asked s.conFail t.conFail ∧ ConsoleWorkerKeeps s t := by
  obtain ⟨o, hask, hasked⟩ := askOracle_of_nextAnswer (Config.conFail s.tick) hanswer
  have hstep := inputWorkerStep_of_byte (s := takeMove s) hlive hask hbyte
  exact ⟨_, step_of_inputWorkerStep hmoves hstep, rfl, rfl, hasked, consoleWorkerKeeps_takeMove s _ _ o⟩

/-- The pending byte is written (R311). -/
theorem exists_step_of_pending {v : Byte} (hmoves : Moves .consoleOutput s) (hanswer : NextAnswer s.conFail false)
    (hpending : s.console.outPending = some v) :
    ∃ t, step s = .next t ∧ t.console = consoleFlush s.console v ∧ t.driver = s.driver ∧
      Asked s.conFail t.conFail ∧ ConsoleWorkerKeeps s t := by
  obtain ⟨o, hask, hasked⟩ := askOracle_of_nextAnswer (Config.conFail s.tick) hanswer
  have hstep := outputWorkerStep_of_pending (s := takeMove s) hpending hask
  exact ⟨_, step_of_outputWorkerStep hmoves hstep, rfl, rfl, hasked, consoleWorkerKeeps_takeMove s _ _ o⟩

/-- The end of INPUT (R312). -/
theorem exists_step_of_end (hmoves : Moves .consoleInput s) (hanswer : NextAnswer s.conFail false)
    (hlive : s.console.inputState = .live) (hend : consoleNextInput s.console s.tick = none) :
    ∃ t, step s = .next t ∧ Asked s.conFail t.conFail ∧ ConsoleWorkerKeeps s t ∧
      (s.launch.conEofAborts = false →
        t.console = { s.console with inputState := .ended } ∧ t.driver = s.driver) ∧
      (s.launch.conEofAborts = true →
        t.console = s.console ∧ t.driver = { s.driver with fault := some .consoleIOFailure }) := by
  obtain ⟨o, hask, hasked⟩ := askOracle_of_nextAnswer (Config.conFail s.tick) hanswer
  have hstep := step_of_inputWorkerStep hmoves (inputWorkerStep_of_end (s := takeMove s) hlive hask hend)
  cases haborts : s.launch.conEofAborts with
  | false =>
    rw [takeMove_launch, haborts] at hstep
    exact ⟨_, hstep, hasked, consoleWorkerKeeps_takeMove s _ _ o, fun _ => ⟨rfl, rfl⟩, nofun⟩
  | true =>
    rw [takeMove_launch, haborts] at hstep
    obtain ⟨hfault, -⟩ := hmoves
    exact ⟨_, hstep, hasked, consoleWorkerKeeps_takeMove s _ _ o, nofun,
      fun _ => ⟨rfl, raise_driver_of_none .consoleIOFailure hfault⟩⟩

/-- Either worker fails where CON_FAIL says so (R312). -/
theorem exists_step_of_fails (hanswer : NextAnswer s.conFail true)
    (henabled : (Moves .consoleInput s ∧ s.console.inputState = .live) ∨
      (Moves .consoleOutput s ∧ s.console.outPending ≠ none)) :
    ∃ t, step s = .next t ∧ t.console = s.console ∧
      t.driver = { s.driver with fault := some .consoleIOFailure } ∧ Asked s.conFail t.conFail ∧
      ConsoleWorkerKeeps s t := by
  obtain ⟨o, hask, hasked⟩ := askOracle_of_nextAnswer (Config.conFail s.tick) hanswer
  have hstep : s.driver.fault = none ∧ step s = .next ({ takeMove s with conFail := o }.raise .consoleIOFailure) := by
    rcases henabled with ⟨hmoves, hlive⟩ | ⟨hmoves, hpending⟩
    case inl =>
      exact ⟨hmoves.1, step_of_inputWorkerStep hmoves (inputWorkerStep_of_fails (s := takeMove s) hlive hask)⟩
    case inr =>
      obtain ⟨v, hv⟩ := Option.ne_none_iff_exists'.mp hpending
      exact ⟨hmoves.1, step_of_outputWorkerStep hmoves (outputWorkerStep_of_fails (s := takeMove s) hv hask)⟩
  obtain ⟨hfault, hstep⟩ := hstep
  exact ⟨_, hstep, rfl, raise_driver_of_none .consoleIOFailure hfault, hasked, consoleWorkerKeeps_takeMove s _ _ o⟩

/-- A worker with nothing to do uses up its move. -/
theorem step_of_disabled
    (h : (Moves .consoleInput s ∧ s.console.inputState = .ended) ∨
      (Moves .consoleOutput s ∧ s.console.outPending = none)) : step s = .next (takeMove s) := by
  rcases h with ⟨hmoves, hended⟩ | ⟨hmoves, hnone⟩
  case inl =>
    exact step_of_inputWorkerStep hmoves (inputWorkerStep_of_ended (s := takeMove s) hended)
  case inr =>
    exact step_of_outputWorkerStep hmoves (outputWorkerStep_of_none (s := takeMove s) hnone)

theorem outChar_keeps_input (c : Console) (v : Byte) :
    (consoleOutChar c v).inputState = c.inputState ∧ (consoleOutChar c v).input = c.input ∧
      (consoleOutChar c v).inAvail = c.inAvail ∧ (consoleOutChar c v).inByte = c.inByte := by
  unfold consoleOutChar
  split
  · exact ⟨rfl, rfl, rfl, rfl⟩
  · exact ⟨rfl, rfl, rfl, rfl⟩

/-- Once INPUT has ended, no step of any mover delivers a byte (R312); the stored one may still be read. -/
theorem step_of_ended {t : State} (hended : s.console.inputState = .ended) (h : step s = .next t) :
    t.console.inputState = .ended ∧ t.console.input = s.console.input ∧
      (t.console.inAvail = true → s.console.inAvail = true) ∧
      (t.console.inByte = s.console.inByte ∨ (s.launch.conInZeroOnRead = true ∧ t.console.inByte = 0x00)) := by
  rcases step_console h with hc | hc | ⟨v, hc⟩ | ⟨b, hlive, -⟩ | hc | ⟨v, -, hc⟩
  case inl => rw [hc]; exact ⟨hended, rfl, id, .inl rfl⟩
  case inr.inl =>
    rw [hc]
    refine ⟨hended, rfl, nofun, ?_⟩
    cases hzero : s.launch.conInZeroOnRead with
    | false => exact .inl rfl
    | true => exact .inr ⟨rfl, rfl⟩
  case inr.inr.inl =>
    obtain ⟨hstate, hinput, havail, hbyte⟩ := outChar_keeps_input s.console v
    rw [hc]
    exact ⟨hstate.trans hended, hinput, havail.symm.trans, .inl hbyte⟩
  case inr.inr.inr.inl => rw [hended] at hlive; cases hlive
  case inr.inr.inr.inr.inl => rw [hc]; exact ⟨rfl, rfl, id, .inl rfl⟩
  case inr.inr.inr.inr.inr => rw [hc]; exact ⟨hended, rfl, id, .inl rfl⟩

end

/-- Settles O53: one lemma per kind of step, chosen by the next byte of INPUT, the pending byte and CON_FAIL's
answer. -/
theorem consoleWorkerSteps : Obligations.ConsoleWorkerSteps := by
  intro s
  refine ⟨?byte, fun v => exists_step_of_pending, ?endOfInput, exists_step_of_fails, step_of_disabled,
    fun t => step_of_ended⟩
  case byte =>
    intro b rest hmoves hanswer hlive hinput
    have hnext : consoleNextInput s.console s.tick = some b ∧ s.console.input.tail = rest := by
      rcases hinput with hlisted | ⟨hnil, rfl, hfree, hdraw⟩
      · exact ⟨consoleNextInput_of_cons s.tick hlisted, congrArg List.tail hlisted⟩
      · exact ⟨(consoleNextInput_of_free s.tick hnil hfree).trans hdraw, congrArg List.tail hnil⟩
    obtain ⟨hbyte, rfl⟩ := hnext
    exact exists_step_of_byte hmoves hanswer hlive hbyte
  case endOfInput =>
    intro hmoves hanswer hlive hnil htail
    have hend : consoleNextInput s.console s.tick = none := by
      rcases htail with hends | ⟨hfree, hdraw⟩
      · exact consoleNextInput_of_ends s.tick hnil hends
      · exact (consoleNextInput_of_free s.tick hnil hfree).trans hdraw
    exact exists_step_of_end hmoves hanswer hlive hend

end Sys2Proof.Proofs
end

section
/-! PROOFS. What the disk image file makes of the machine (45_disk.md R333), and that no step changes the geometry. -/

namespace Sys2Proof.Proofs

open Sys2Proof.Machine Sys2Proof.Laws Sys2Proof.Safety

/-! ### The image file -/

/-- An image file opens exactly where it is its data region and three geometry bytes that match its length. -/
theorem openImage_eq_some_iff {file data : List Byte} {h t s : Byte} :
    openImage file = some (data, h, t, s) ↔
      file = data ++ [h, t, s] ∧ file.length = h.toNat * t.toNat * s.toNat * 128 + 3 := by
  constructor
  case mp =>
    intro hopen
    unfold openImage at hopen
    split at hopen
    case h_1 heads tracks sectors hgeometry =>
      have hfile : file = file.take (file.length - 3) ++ [heads, tracks, sectors] := by
        rw [← hgeometry, List.take_append_drop]
      dsimp only at hopen
      split at hopen
      case isTrue hsize =>
        cases hopen
        refine ⟨hfile, ?_⟩
        rw [hfile, List.length_append, hsize]
        rfl
      case isFalse => cases hopen
    case h_2 => cases hopen
  case mpr =>
    rintro ⟨rfl, hlen⟩
    have hsize : data.length = imageSize h t s := by simpa [imageSize] using hlen
    simp [openImage, hsize]

theorem construct_eq_configurationError_iff {p : LaunchParams} :
    construct p = .fault .configurationError ↔ openImage p.imageFile = none := by
  unfold construct
  split
  next hnone => simp [hnone]
  next hopen => simp [hopen]

theorem exists_construct_of_openImage {p : LaunchParams} {data : List Byte} {h t s : Byte}
    (hopen : openImage p.imageFile = some (data, h, t, s)) :
    ∃ m, construct p = .next m ∧ m.disk = Disk.initial h t s (writeCells [] 0 data) p.buf0 := by
  unfold construct
  rw [hopen]
  exact ⟨_, rfl, rfl⟩

/-! ### The geometry -/

/-- Two disks have the same heads, tracks and sectors. -/
def SameGeometry (d d' : Disk) : Prop := d'.heads = d.heads ∧ d'.tracks = d.tracks ∧ d'.sectors = d.sectors

theorem sameGeometry_refl (d : Disk) : SameGeometry d d := ⟨rfl, rfl, rfl⟩

theorem sameGeometry_diskStatusPoll (d : Disk) : SameGeometry d (diskStatusPoll d).2 := by
  unfold diskStatusPoll
  split <;> exact ⟨rfl, rfl, rfl⟩

theorem sameGeometry_diskUnlessBusy {d after : Disk} (h : SameGeometry d after) :
    SameGeometry d (diskUnlessBusy d after) := by
  unfold diskUnlessBusy
  split
  · exact sameGeometry_refl d
  · exact h

theorem sameGeometry_diskDispatch (d : Disk) (c : DiskCommand) : SameGeometry d (diskDispatch d c) := by
  unfold diskDispatch
  split_ifs <;> exact ⟨rfl, rfl, rfl⟩

theorem sameGeometry_diskHalt (d : Disk) : SameGeometry d (diskHalt d) := by
  unfold diskHalt
  split <;> exact ⟨rfl, rfl, rfl⟩

theorem sameGeometry_diskReport_diskPerform (d : Disk) (fails : Bool) (tick : Nat) (c : DiskCommand) :
    SameGeometry d (diskReport (diskPerform d fails tick c)) := by
  obtain ⟨buffer, image, latchHead, latchTrack, hperform, -⟩ := diskPerform_frame d fails tick c
  unfold diskReport
  rw [hperform]
  exact ⟨rfl, rfl, rfl⟩

/-- No step changes the geometry, whoever moves. -/
theorem step_sameGeometry {s t : State} (h : step s = .next t) : SameGeometry s.disk t.disk := by
  rcases step_disk h with hd | hd | ⟨_, _, _, _, hd⟩ | ⟨c, hd⟩ | hd | hd | ⟨c, fails, tick, -, -, hd⟩ <;> rw [hd]
  · exact sameGeometry_refl _
  · exact sameGeometry_diskStatusPoll _
  · exact sameGeometry_diskUnlessBusy ⟨rfl, rfl, rfl⟩
  · exact sameGeometry_diskDispatch _ c
  · exact sameGeometry_diskUnlessBusy ⟨rfl, rfl, rfl⟩
  · exact sameGeometry_diskHalt _
  · exact sameGeometry_diskReport_diskPerform ..

/-- Settles O5: `construct` refuses exactly the files that do not open, a file that opens gives the disk its geometry
and data, and every operation on the disk keeps the geometry. -/
theorem imageFileFixesGeometry : Obligations.ImageFileFixesGeometry := by
  refine ⟨fun p => ?error, fun p data h t s hfile hlen => ?opened, fun s t => step_sameGeometry⟩
  case error => simp [construct_eq_configurationError_iff, Option.eq_none_iff_forall_ne_some, ← openImage_eq_some_iff]
  case opened =>
    obtain ⟨m, hnext, hdisk⟩ := exists_construct_of_openImage (openImage_eq_some_iff.mpr ⟨hfile, hlen⟩)
    refine ⟨m, hnext, ?_⟩
    rw [hdisk]
    refine ⟨rfl, rfl, rfl, fun k hk => ?_⟩
    simpa [Disk.initial] using readCell_writeCells_inside [] 0 data k hk

end Sys2Proof.Proofs
end

section
/-! PROOFS. What the disk's ports do: the status poll (45_disk.md R346), the control registers (R336, R337) and the
commands of port 10 (R339 to R343, R354, R355). -/

namespace Sys2Proof.Proofs

open Sys2Proof.Machine Sys2Proof.Laws Sys2Proof.Safety

/-! ### The disk's operations, by their conditions -/

section
variable {d : Disk}

theorem diskUnlessBusy_of_busy (after : Disk) (h : d.status = .busy) : diskUnlessBusy d after = d := if_pos h

theorem diskUnlessBusy_of_not_busy (after : Disk) (h : d.status ≠ .busy) : diskUnlessBusy d after = after := if_neg h

theorem diskStatusPoll_of_completion {r : DiskResult} (hbusy : d.status = .busy) (hdone : d.done = some r) :
    diskStatusPoll d =
      (diskStatusCode (diskStatusOfResult r), { d with status := diskStatusOfResult r, done := none }) := by
  simp only [diskStatusPoll, hbusy, hdone]

theorem diskStatusPoll_of_no_completion (h : d.status = .busy → d.done = none) :
    diskStatusPoll d = (diskStatusCode d.status, d) := by
  unfold diskStatusPoll
  split
  next r hbusy hdone => rw [h hbusy] at hdone; cases hdone
  next => rfl

theorem diskValid_iff_inGeometry : diskValid d = true ↔ InGeometry d d.head d.track d.sector := by
  simp only [diskValid, InGeometry, Bool.and_eq_true, decide_eq_true_eq, and_assoc]

theorem diskDispatch_of_busy (c : DiskCommand) (h : d.status = .busy) : diskDispatch d c = d := if_pos h

theorem diskDispatch_of_inGeometry (c : DiskCommand) (hfree : d.status ≠ .busy)
    (hin : InGeometry d d.head d.track d.sector) :
    diskDispatch d c = { d with status := .busy, pending := some c } := by
  rw [diskDispatch, if_neg hfree, if_pos (diskValid_iff_inGeometry.mpr hin)]

theorem diskDispatch_of_not_inGeometry (c : DiskCommand) (hfree : d.status ≠ .busy)
    (hout : ¬InGeometry d d.head d.track d.sector) : diskDispatch d c = { d with status := .badParam } := by
  rw [diskDispatch, if_neg hfree, if_neg (mt diskValid_iff_inGeometry.mp hout)]

/-- Command 3 writes the buffer only. -/
theorem diskCopyFromAddr_eq_with_buffer (d : Disk) (m : Store) :
    diskCopyFromAddr d m = { d with buffer := (diskCopyFromAddr d m).buffer } := by
  unfold diskCopyFromAddr diskUnlessBusy
  split <;> rfl

theorem diskCopyFromAddr_buffer_getElem (m : Store) (hfree : d.status ≠ .busy) (k : Nat) (hk : k < 128) :
    (diskCopyFromAddr d m).buffer[k] = memRead m (d.addr + BitVec.ofNat 16 k) := by
  simp [diskCopyFromAddr, diskUnlessBusy_of_not_busy _ hfree]

theorem diskCopyToAddr_of_busy (m : Store) (h : d.status = .busy) : diskCopyToAddr d m = m := if_pos h

theorem diskCopyToAddr_of_not_busy (m : Store) (h : d.status ≠ .busy) :
    diskCopyToAddr d m = memInstall m d.addr d.buffer.toList := if_neg h

theorem diskCommand_of_gt {v : Byte} (m : Store) (h : 4 < v.toNat) :
    diskCommand d v m = .error (.badDiskCommand v) := by
  unfold diskCommand
  split
  case h_6 => rfl
  all_goals omega

end

/-- Each byte of at most 65536 installed ones reads back at its address. -/
theorem memRead_memInstall_inside (m : Store) (a : Word) (bytes : List Byte) (hlen : bytes.length ≤ 65536) (k : Nat)
    (hk : k < bytes.length) : memRead (memInstall m a bytes) (a + BitVec.ofNat 16 k) = bytes[k] := by
  rw [← memBytes_getElem _ a bytes.length k hk]
  exact List.getElem_of_eq (memBytes_memInstall m a bytes hlen) _

/-! ### The port operations that reach the disk (43_port_io.md R275, R276) -/

theorem portIn_four (s : State) :
    portIn 4 s = .ok ((diskStatusPoll s.disk).1, { s with disk := (diskStatusPoll s.disk).2 }) := rfl

theorem portOut_ten (v : Byte) (s : State) :
    portOut 10 v s = (diskCommand s.disk v s.mem).map fun r => { s with disk := r.1, mem := r.2 } := rfl

/-- What OUT to port 10 does where the command does not fault: disk and memory are those the command leaves. -/
theorem exists_next_of_diskCommand {s : State} {d : Disk} {m : Store}
    (h : diskCommand s.disk s.main.a s.mem = .ok (d, m)) :
    ∃ t, exec (.outNA 10) s = .next t ∧ t.disk = d ∧ t.mem = m ∧ t.console = s.console ∧ t.pc = s.pc + 2 ∧
      PortKeeps [] s t ∧ PortStop (.portOut 10 s.main.a) s t := by
  have hport : portOut 10 s.main.a ((s.advance 2).stop (.portOut 10 s.main.a)) =
      .ok { (s.advance 2).stop (.portOut 10 s.main.a) with disk := d, mem := m } := by
    rw [portOut_ten, stop_disk, stop_mem, advance_disk, advance_mem, h]
    rfl
  obtain ⟨t, hexec, hconsole, hdisk, hmem, hpc, hkeeps, hstop⟩ := exists_next_of_portOut hport
  exact ⟨t, hexec, hdisk, hmem, hconsole, hpc, hkeeps, hstop⟩

/-! ### The obligations -/

/-- Settles O45: a completion while Busy is reported and cleared, and in every other case the poll changes nothing. -/
theorem inDiskStatus : Obligations.InDiskStatus := by
  intro s after left h
  have hpoll : diskStatusPoll s.disk = (diskStatusCode after, { s.disk with status := after, done := left }) := by
    by_cases hidle : s.disk.status = .busy → s.disk.done = none
    case pos =>
      rw [diskStatusPoll_of_no_completion hidle]
      split at h
      case h_5 => obtain ⟨rfl, rfl⟩ := Prod.mk.inj h; rfl
      all_goals rename_i hbusy hdone; rw [hidle hbusy] at hdone; cases hdone
    case neg =>
      obtain ⟨hbusy, hdone⟩ := Classical.not_imp.mp hidle
      obtain ⟨r, hr⟩ := Option.ne_none_iff_exists'.mp hdone
      rw [diskStatusPoll_of_completion hbusy hr]
      rw [hbusy, hr] at h
      cases r <;> cases h <;> rfl
  obtain ⟨t, hexec, ha, hconsole, hdisk, hmem, hpc, hkeeps, hstop⟩ := exists_next_of_portIn (portIn_four _)
  have ha' : t.main.a = diskStatusCode after := ha.trans (congrArg Prod.fst hpoll)
  exact ⟨t, hexec, hdisk.trans (congrArg Prod.snd hpoll), ha', hconsole, hmem, hpc, hkeeps, hstop⟩

/-- Settles O47: each of the five port operations is one field's write, dropped while Busy. -/
theorem outDiskRegister : Obligations.OutDiskRegister := by
  intro s n after hwrite
  have hport : portOut n s.main.a ((s.advance 2).stop (.portOut n s.main.a)) =
      .ok { (s.advance 2).stop (.portOut n s.main.a) with disk := diskUnlessBusy s.disk after } := by
    rcases hwrite with ⟨rfl, rfl⟩ | ⟨rfl, rfl⟩ | ⟨rfl, rfl⟩ | ⟨rfl, rfl⟩ | ⟨rfl, rfl⟩ <;> rfl
  obtain ⟨t, hexec, hconsole, hdisk, hmem, hpc, hkeeps, hstop⟩ := exists_next_of_portOut hport
  exact ⟨t, hexec, hdisk, hconsole, fun a => congrArg (memRead · a) hmem, hpc, hkeeps, hstop⟩

/-- Settles O48: each of the three commands is one dispatch. -/
theorem outDiskDispatch : Obligations.OutDiskDispatch := by
  intro s c hcommand
  have hdispatch : diskCommand s.disk s.main.a s.mem = .ok (diskDispatch s.disk c, s.mem) := by
    rcases hcommand with ⟨ha, rfl⟩ | ⟨ha, rfl⟩ | ⟨ha, rfl⟩ <;> rw [ha] <;> rfl
  obtain ⟨t, hexec, hdisk, hmem, hconsole, hpc, hkeeps, hstop⟩ := exists_next_of_diskCommand hdispatch
  refine ⟨t, hexec, ?busy, ?valid, ?invalid, hconsole, fun a => congrArg (memRead · a) hmem, hpc, hkeeps, hstop⟩
  case busy => exact fun hbusy => hdisk.trans (diskDispatch_of_busy c hbusy)
  case valid => exact fun hfree hin => hdisk.trans (diskDispatch_of_inGeometry c hfree hin)
  case invalid => exact fun hfree hout => hdisk.trans (diskDispatch_of_not_inGeometry c hfree hout)

/-- Command 3 (R354). -/
theorem exists_next_of_copyFromAddr {s : State} (ha : s.main.a = 3) :
    ∃ t, exec (.outNA 10) s = .next t ∧ SameMem s t ∧ t.disk = { s.disk with buffer := t.disk.buffer } ∧
      (s.disk.status = .busy → t.disk.buffer = s.disk.buffer) ∧
      (s.disk.status ≠ .busy → ∀ (k : Nat) (hk : k < 128),
        t.disk.buffer[k] = memRead s.mem (s.disk.addr + BitVec.ofNat 16 k)) ∧
      t.console = s.console ∧ t.pc = s.pc + 2 ∧ PortKeeps [] s t ∧ PortStop (.portOut 10 3) s t := by
  have hcopy : diskCommand s.disk s.main.a s.mem = .ok (diskCopyFromAddr s.disk s.mem, s.mem) := by rw [ha]; rfl
  obtain ⟨t, hexec, hdisk, hmem, hconsole, hpc, hkeeps, hstop⟩ := exists_next_of_diskCommand hcopy
  rw [ha] at hstop
  refine ⟨t, hexec, fun a => congrArg (memRead · a) hmem, ?_, ?_, ?_, hconsole, hpc, hkeeps, hstop⟩ <;> rw [hdisk]
  · exact diskCopyFromAddr_eq_with_buffer s.disk s.mem
  · exact fun hbusy => congrArg Disk.buffer (diskUnlessBusy_of_busy _ hbusy)
  · exact diskCopyFromAddr_buffer_getElem s.mem

/-- Command 4 (R355). -/
theorem exists_next_of_copyToAddr {s : State} (ha : s.main.a = 4) :
    ∃ t, exec (.outNA 10) s = .next t ∧ t.disk = s.disk ∧ (s.disk.status = .busy → SameMem s t) ∧
      (s.disk.status ≠ .busy →
        (∀ (k : Nat) (hk : k < 128), memRead t.mem (s.disk.addr + BitVec.ofNat 16 k) = s.disk.buffer[k]) ∧
        ∀ a : Word, (∀ k < 128, a ≠ s.disk.addr + BitVec.ofNat 16 k) → memRead t.mem a = memRead s.mem a) ∧
      t.console = s.console ∧ t.pc = s.pc + 2 ∧ PortKeeps [] s t ∧ PortStop (.portOut 10 4) s t := by
  have hcopy : diskCommand s.disk s.main.a s.mem = .ok (s.disk, diskCopyToAddr s.disk s.mem) := by rw [ha]; rfl
  obtain ⟨t, hexec, hdisk, hmem, hconsole, hpc, hkeeps, hstop⟩ := exists_next_of_diskCommand hcopy
  rw [ha] at hstop
  refine ⟨t, hexec, hdisk, fun hbusy a => ?busy, fun hfree => ?free, hconsole, hpc, hkeeps, hstop⟩
  case busy => rw [hmem, diskCopyToAddr_of_busy _ hbusy]
  case free =>
    have hlen : s.disk.buffer.toList.length = 128 := Vector.length_toList
    rw [hmem, diskCopyToAddr_of_not_busy _ hfree]
    refine ⟨fun k hk => ?inside, fun a houtside => ?outside⟩
    case inside =>
      rw [memRead_memInstall_inside _ _ _ (by omega) k (by omega), Vector.getElem_toList]
    case outside =>
      exact memRead_memInstall_outside _ _ _ _ fun k hk => houtside k (by omega)

/-- Settles O49: one lemma per direction of the copy. -/
theorem outDiskCopies : Obligations.OutDiskCopies :=
  fun _ => ⟨exists_next_of_copyFromAddr, exists_next_of_copyToAddr⟩

/-- Settles O51: the port operation is the command, which faults before it looks at the status. -/
theorem badDiskCommandIsFatal : Obligations.BadDiskCommandIsFatal := by
  intro s hfault hgt
  have hport : portOut 10 s.main.a ((s.advance 2).stop (.portOut 10 s.main.a)) =
      .error (.badDiskCommand s.main.a) := by
    rw [portOut_ten, diskCommand_of_gt _ hgt]
    rfl
  obtain ⟨t, hexec, hrecorded, hmain, hothers, hmem, hconsole, hdisk, -, hstep⟩ :=
    exists_next_of_stop_raise hfault (exec_outNA_of_error hport)
  exact ⟨t, hexec, hrecorded, hdisk, hmain, hothers, hmem, hconsole, hstep⟩

end Sys2Proof.Proofs
end

section
/-! PROOFS. What the disk worker's step does with the pending command (45_disk.md R348 to R353). -/

namespace Sys2Proof.Proofs

open Sys2Proof.Machine Sys2Proof.Laws Sys2Proof.Safety

/-! ### Sectors of the backing store (R334, R351) -/

/-- The place of a cell in rows of `n` cells, `m` of them, is one of `m * n`. -/
theorem row_mul_add_column_lt {i j m n : Nat} (hi : i < m) (hj : j < n) : i * n + j < m * n := by
  rw [Nat.mul_comm i n]
  exact Nat.mul_add_lt_mul_of_lt_of_lt hi hj

section
variable {d : Disk} {k : Byte}

/-- A sector of the geometry lies in the data region. -/
theorem diskInside_of_inGeometry (h : InGeometry d d.latchHead d.latchTrack k) :
    diskInside d (sectorOffset d d.latchHead d.latchTrack k) = true := by
  obtain ⟨hhead, htrack, hsector⟩ := h
  have hplace := row_mul_add_column_lt (row_mul_add_column_lt hhead htrack) hsector
  refine decide_eq_true ?_
  rw [sectorOffset, imageSize, ← Nat.succ_mul]
  exact Nat.mul_le_mul_right 128 hplace

theorem readCell_diskStoreSector_inside {off : Nat} (bytes : Vector Byte 128) (h : diskInside d off = true) (j : Nat)
    (hj : j < 128) : readCell (diskStoreSector d off bytes) (off + j) = bytes[j] := by
  rw [diskStoreSector, if_pos h, readCell_writeCells_inside _ _ _ j (by simpa using hj), Vector.getElem_toList]

theorem readCell_diskStoreSector_outside (d : Disk) {off x : Nat} (bytes : Vector Byte 128)
    (h : x < off ∨ off + 128 ≤ x) : readCell (diskStoreSector d off bytes) x = readCell d.image x := by
  unfold diskStoreSector
  split
  · exact readCell_writeCells_outside _ _ _ _ (by simpa using h)
  · rfl

/-! ### Read and Write of a sector in the geometry (R351, R352) -/

theorem diskDoRead_of_inGeometry (tick : Nat) (h : InGeometry d d.latchHead d.latchTrack k) :
    diskDoRead d false tick k =
      ({ d with buffer := sectorAt d.image (sectorOffset d d.latchHead d.latchTrack k) }, .ok) :=
  if_pos (diskInside_of_inGeometry h)

theorem diskDoWrite_of_inGeometry (tick : Nat) (h : InGeometry d d.latchHead d.latchTrack k) :
    diskDoWrite d false tick k =
      ({ d with image := diskStoreSector d (sectorOffset d d.latchHead d.latchTrack k) d.buffer }, .ok) :=
  if_pos (diskInside_of_inGeometry h)

end

/-! ### The step, by the answer of DISK_FAIL (R348, R349) -/

theorem diskWorkerStep_of_pending {tick : Nat} {s : State} {c : DiskCommand} {fails : Bool} {o : Oracle}
    (hpending : s.disk.pending = some c) (hrunning : s.disk.workerState ≠ .stopped)
    (hask : askOracle s.diskFail (Config.diskFail tick) = (fails, o)) :
    diskWorkerStep tick s = { s with disk := diskReport (diskPerform s.disk fails tick c), diskFail := o } := by
  simp [diskWorkerStep, hpending, hrunning, hask]

section
variable {s : State}

/-- A write of the disk and DISK_FAIL is all that the disk worker's step may do. -/
theorem diskWorkerKeeps_takeMove (s : State) (d : Disk) (o : Oracle) :
    DiskWorkerKeeps s { takeMove s with disk := d, diskFail := o } :=
  ⟨⟨rfl, ⟨rfl, rfl, rfl, rfl⟩, rfl, rfl, rfl, rfl, rfl⟩, rfl, rfl, rfl⟩

/-- The worker performs the pending command and reports its result. -/
theorem exists_step_of_command {c : DiskCommand} {fails : Bool} (hmoves : Moves .disk s)
    (hanswer : NextAnswer s.diskFail fails) (hrunning : s.disk.workerState ≠ .stopped)
    (hpending : s.disk.pending = some c) :
    ∃ u, step s = .next u ∧ u.disk = diskReport (diskPerform s.disk fails s.tick c) ∧
      Asked s.diskFail u.diskFail ∧ DiskWorkerKeeps s u := by
  obtain ⟨o, hask, hasked⟩ := askOracle_of_nextAnswer (Config.diskFail s.tick) hanswer
  have hstep : step s = .next { takeMove s with
      disk := diskReport (diskPerform s.disk fails s.tick c), diskFail := o } := by
    rw [step_of_moves hmoves, moveStep, diskWorkerStep_of_pending (s := takeMove s) hpending hrunning hask]
    rfl
  exact ⟨_, hstep, rfl, hasked, diskWorkerKeeps_takeMove s _ o⟩

end

/-- Settles O54: with no failure the command performed is Seek's latch, or Read or Write of a sector in the data
region. -/
theorem diskWorkerCompletes : Obligations.DiskWorkerCompletes := by
  intro s hmoves hanswer hrunning
  have hcommand := fun c => exists_step_of_command (c := c) hmoves hanswer hrunning
  refine ⟨fun h t hpending => ?seek, fun k hpending hin => ?read, fun k hpending hin => ?write⟩
  case seek => exact hcommand _ hpending
  case read =>
    obtain ⟨u, hstep, hdisk, hkeeps⟩ := hcommand _ hpending
    rw [diskPerform, diskDoRead_of_inGeometry _ hin] at hdisk
    refine ⟨u, hstep, ?_, fun j hj => ?_, hkeeps⟩ <;> simp only [hdisk]
    · rfl
    · simp [diskReport, sectorAt]
  case write =>
    obtain ⟨u, hstep, hdisk, hkeeps⟩ := hcommand _ hpending
    rw [diskPerform, diskDoWrite_of_inGeometry _ hin] at hdisk
    refine ⟨u, hstep, ?_, fun j hj => ?_, fun x hx => ?_, hkeeps⟩ <;> simp only [hdisk]
    · rfl
    · exact readCell_diskStoreSector_inside _ (diskInside_of_inGeometry hin) j hj
    · exact readCell_diskStoreSector_outside _ _ hx

/-- Settles O55: a failing Seek, Read or Write draws the latch, the buffer or the target sector, and nothing else. -/
theorem diskFailuresAreReported : Obligations.DiskFailuresAreReported := by
  intro s hmoves hanswer hrunning
  have hcommand := fun c => exists_step_of_command (c := c) hmoves hanswer hrunning
  refine ⟨fun h t hpending => ?seek, fun k hpending => ?read, fun k hpending => ?write⟩
  case seek =>
    obtain ⟨u, hstep, hdisk, hkeeps⟩ := hcommand _ hpending
    exact ⟨u, hstep, by rw [hdisk]; rfl, hkeeps⟩
  case read =>
    obtain ⟨u, hstep, hdisk, hkeeps⟩ := hcommand _ hpending
    exact ⟨u, hstep, by rw [hdisk]; rfl, hkeeps⟩
  case write =>
    obtain ⟨u, hstep, hdisk, hkeeps⟩ := hcommand _ hpending
    refine ⟨u, hstep, by rw [hdisk]; rfl, fun x hx => ?_, hkeeps⟩
    rw [hdisk]
    exact readCell_diskStoreSector_outside s.disk _ hx

end Sys2Proof.Proofs
end

section
/-! PROOFS. What `reset()` does to the registers (70_reset_and_hazards.md R420), and the memory and the PC a machine
starts with (R421). -/

namespace Sys2Proof.Proofs

open Sys2Proof.Machine Sys2Proof.Laws Sys2Proof.Safety

/-! ### Reset -/

@[simp] theorem bank_get_zero (r : Reg8) : Bank.zero.get r = 0 := by cases r <;> rfl

@[simp] theorem resetCpu_getR8 (s : State) (r : Reg8) : s.resetCpu.getR8 r = 0 := bank_get_zero r

/-- `reset()` writes the CPU's registers only. -/
theorem sameOutside_resetCpu (s : State) : SameOutside s s.resetCpu :=
  sameOutside_of_cpu_write s Bank.zero Bank.zero 0 0 0 0 s.mem

/-- Settles O1: the host's `reset` is `resetCpu`, which puts the zero bank into both register sets. -/
theorem resetZeroesRegistersOnly : Obligations.ResetZeroesRegistersOnly := by
  intro s
  have hregs : ∀ r, s.resetCpu.getR8 r = 0 ∧ s.resetCpu.alt.get r = 0 :=
    fun r => ⟨resetCpu_getR8 s r, bank_get_zero r⟩
  have hmem : SameMem s s.resetCpu := fun _ => rfl
  exact ⟨s.resetCpu, hostStep_reset s, hregs, rfl, rfl, rfl, rfl, rfl, rfl, hmem, sameOutside_resetCpu s⟩

/-! ### Boot -/

theorem construct_mem {p : LaunchParams} {m : State} (h : construct p = .next m) : m.mem = p.mem0 := by
  unfold construct at h
  split at h
  case h_1 => cases h
  case h_2 => cases h; rfl

/-- A booted machine is at address 0, and its memory is MEM0 with the ROM installed. -/
theorem boot_pc_mem {p : LaunchParams} {s : State} (h : boot p = .next s) :
    s.pc = 0 ∧ s.mem = memInstall p.mem0 romBase p.rom := by
  obtain ⟨m, hconstruct, rfl⟩ := boot_eq_next.mp h
  simp [construct_mem hconstruct]

/-- Bytes installed from address 0 on do not reach an address at or past their number. -/
theorem memRead_memInstall_zero_of_length_le (m : Store) (bytes : List Byte) (a : Word)
    (h : bytes.length ≤ a.toNat) : memRead (memInstall m 0 bytes) a = memRead m a := by
  refine memRead_memInstall_outside m 0 a bytes fun k hk => ?_
  have hlt : k < a.toNat := by omega
  bv_omega

/-- Settles O4: the booted memory is MEM0 with the ROM installed, so the ROM reads back from address 0 on and `install`
leaves every address past it alone. -/
theorem bootInstallsRomAtZero : Obligations.BootInstallsRomAtZero := by
  intro p s hboot
  obtain ⟨hpc, hmem⟩ := boot_pc_mem hboot
  refine ⟨hpc, hmem, fun hlen => ?_⟩
  rw [hmem]
  exact ⟨memBytes_memInstall p.mem0 romBase p.rom hlen, memRead_memInstall_zero_of_length_le p.mem0 p.rom⟩

end Sys2Proof.Proofs
end

section
/-! PROOFS. Decoder and encoder are each other's inverse, on every instruction and on every byte sequence, and which
unprefixed bytes are Illegal (30_encoding.md R112 to R121). -/

namespace Sys2Proof.Proofs

open Sys2Proof.Machine Sys2Proof.Laws Sys2Proof.Safety

/-! ### What the encoder writes, the decoder reads -/

theorem encodedAs_ldDdNn (p : Pair) (nn : Word) :
    EncodedAs (.ldDdNn p nn) [opcodeXPQZ 0 (fieldOfPair p) 0 1, loByte nn, hiByte nn] := by
  have hbyte : opcodeXPQZ 0 (fieldOfPair p) 0 1 = 0b00#2 ++ fieldOfPair p ++ 0b0001#4 := by cases p <;> rfl
  rw [hbyte]
  exact encodedAs_imm16 (decode_ldDdNn p) nn

theorem encodedAs_encode {i : Instr} (hwf : i.wellFormed = true) : EncodedAs i (encode i) := by
  cases i
  case jpNn nn => exact encodedAs_jpNn nn
  case ldRN r n => exact encodedAs_ldRN n (of_decide_eq_true hwf)
  case ldRR dst src => exact encodedAs_ldRR dst src
  case ldRHl dst => exact encodedAs_ldRHl dst
  case ldHlR src => exact encodedAs_ldHlR src
  case ldDdNn p nn => exact encodedAs_ldDdNn p nn
  case ldIxNn nn => exact encodedAs_imm16 decode_ldIxNn nn
  case ldIyNn nn => exact encodedAs_imm16 decode_ldIyNn nn
  case addAR r => exact encodedAs_addAR r
  case adcAR r => exact encodedAs_adcAR r
  case andR r => exact encodedAs_andR r
  case addHlSs p => cases p <;> exact encodedAs_addHlSs _
  case adcHlSs p => cases p <;> exact encodedAs_adcHlSs _
  case bitR k r => exact encodedAs_bitR k r
  case bitHl k => exact encodedAs_bitHl k
  all_goals exact fun _ => rfl

/-- Settles O7: every instruction's bytes decode to it, by the lemma of its format. -/
theorem decodeEncodeRoundTrip : Obligations.DecodeEncodeRoundTrip :=
  fun _ rest hwf => encodedAs_encode hwf rest

/-! ### What the decoder reads, the encoder writes -/

/-- A verdict on `bytes` accepts them only as the encoding of a well-formed instruction. -/
def AcceptsEncoding (bytes : List Byte) (verdict : DecodeResult) : Prop :=
  ∀ (i : Instr) (rest : List Byte), verdict = .ok (i, rest) → i.wellFormed = true ∧ bytes = encode i ++ rest

theorem acceptsEncoding_ok {bytes rest : List Byte} {i : Instr} (hwf : i.wellFormed = true)
    (hbytes : bytes = encode i ++ rest) : AcceptsEncoding bytes (.ok (i, rest)) := by
  rintro _ _ ⟨⟩
  exact ⟨hwf, hbytes⟩

theorem acceptsEncoding_error {bytes : List Byte} {e : DecodeError} : AcceptsEncoding bytes (.error e) := nofun

theorem acceptsEncoding_decodeImm8 {k : Byte → Instr} {opcode : List Byte} (hwf : ∀ n, (k n).wellFormed = true)
    (hencode : ∀ n, encode (k n) = opcode ++ [n]) (tail : List Byte) :
    AcceptsEncoding (opcode ++ tail) (decodeImm8 k tail) := by
  intro i rest h
  obtain ⟨n, rfl, rfl⟩ := decodeImm8_ok h
  exact ⟨hwf n, by rw [hencode, List.append_assoc]; rfl⟩

theorem acceptsEncoding_decodeImm16 {k : Word → Instr} {opcode : List Byte} (hwf : ∀ nn, (k nn).wellFormed = true)
    (hencode : ∀ nn, encode (k nn) = opcode ++ [loByte nn, hiByte nn]) (tail : List Byte) :
    AcceptsEncoding (opcode ++ tail) (decodeImm16 k tail) := by
  intro i rest h
  obtain ⟨lo, hi, rfl, rfl⟩ := decodeImm16_ok h
  refine ⟨hwf _, ?_⟩
  rw [hencode, loByte_joinBytes, hiByte_joinBytes, List.append_assoc]
  rfl

theorem eq_opcodeXYZ {op : Byte} {x : BitVec 2} {y z : BitVec 3} (hx : opX op = x) (hy : opY op = y)
    (hz : opZ op = z) : op = opcodeXYZ x y z := by
  rw [← hx, ← hy, ← hz, opcodeXYZ_fields]

theorem eq_opcodeXPQZ {op : Byte} {x : BitVec 2} {q : BitVec 1} {z : BitVec 3} (hx : opX op = x) (hq : opQ op = q)
    (hz : opZ op = z) : op = opcodeXPQZ x (opP op) q z := by
  rw [← hx, ← hq, ← hz, opcodeXPQZ_fields]

theorem acceptsEncoding_decodeX0 {op : Byte} (hx : opX op = 0) (tail : List Byte) :
    AcceptsEncoding (op :: tail) (decodeX0 op tail) := by
  rcases decodeX0_cases op tail with ⟨rfl, h⟩ | ⟨rfl, h⟩ | ⟨rfl, h⟩ | ⟨rfl, h⟩ | ⟨rfl, h⟩ | ⟨rfl, h⟩ | ⟨rfl, h⟩ |
    ⟨hmem, ha, hz, h⟩ | ⟨hz, hq, h⟩ | ⟨hz, hq, h⟩ | ⟨-, -, -, -, -, -, -, h⟩
  · rw [h]; exact acceptsEncoding_ok rfl rfl
  · rw [h]; exact acceptsEncoding_ok rfl rfl
  · rw [h]; exact acceptsEncoding_decodeImm8 (opcode := [0x18]) (fun _ => rfl) (fun _ => rfl) tail
  · rw [h]; exact acceptsEncoding_decodeImm8 (opcode := [0x20]) (fun _ => rfl) (fun _ => rfl) tail
  · rw [h]; exact acceptsEncoding_decodeImm8 (opcode := [0x28]) (fun _ => rfl) (fun _ => rfl) tail
  · rw [h]; exact acceptsEncoding_decodeImm8 (opcode := [0x36]) (fun _ => rfl) (fun _ => rfl) tail
  · rw [h]; exact acceptsEncoding_decodeImm8 (opcode := [0x3E]) (fun _ => rfl) (fun _ => rfl) tail
  · obtain ⟨r, hr, hra⟩ := ldRN_register hx hz hmem ha
    have hop : op = opcodeXYZ 0 (fieldOfReg8 r) 6 := eq_opcodeXYZ hx (fieldOfReg8_reg8OfField hr).symm hz
    rw [h r hr]
    exact acceptsEncoding_decodeImm8 (k := .ldRN r) (opcode := [op]) (fun _ => decide_eq_true hra)
      (fun _ => by rw [hop]; rfl) tail
  · have hop := eq_opcodeXPQZ hx hq hz
    rw [h]
    refine acceptsEncoding_decodeImm16 (opcode := [op]) (fun _ => rfl) (fun nn => ?_) tail
    rw [encode, fieldOfPair_pairOfField, ← hop]
    rfl
  · have hop := eq_opcodeXPQZ hx hq hz
    rw [h]
    refine acceptsEncoding_ok rfl ?_
    rw [encode, fieldOfPair_pairOfField, ← hop]
    rfl
  · rw [h]; exact acceptsEncoding_error

theorem acceptsEncoding_decodeX1 {op : Byte} (hx : opX op = 1) (tail : List Byte) :
    AcceptsEncoding (op :: tail) (decodeX1 op tail) := by
  unfold decodeX1
  split
  case h_1 dst src hdst hsrc =>
    have hop : op = opcodeXYZ 1 (fieldOfReg8 dst) (fieldOfReg8 src) :=
      eq_opcodeXYZ hx (fieldOfReg8_reg8OfField hdst).symm (fieldOfReg8_reg8OfField hsrc).symm
    exact acceptsEncoding_ok rfl (congrArg (· :: tail) hop)
  case h_2 dst hdst hsrc =>
    have hop : op = opcodeXYZ 1 (fieldOfReg8 dst) 6 :=
      eq_opcodeXYZ hx (fieldOfReg8_reg8OfField hdst).symm (reg8OfField_eq_none.1 hsrc)
    exact acceptsEncoding_ok rfl (congrArg (· :: tail) hop)
  case h_3 src hdst hsrc =>
    have hop : op = opcodeXYZ 1 6 (fieldOfReg8 src) :=
      eq_opcodeXYZ hx (reg8OfField_eq_none.1 hdst) (fieldOfReg8_reg8OfField hsrc).symm
    exact acceptsEncoding_ok rfl (congrArg (· :: tail) hop)
  case h_4 hdst hsrc =>
    have hop : op = opcodeXYZ 1 6 6 := eq_opcodeXYZ hx (reg8OfField_eq_none.1 hdst) (reg8OfField_eq_none.1 hsrc)
    exact acceptsEncoding_ok rfl (congrArg (· :: tail) hop)

/-- One row of the page x = 2: its register form and its form for the memory operand. -/
theorem acceptsEncoding_accumulatorRow {op : Byte} {y : BitVec 3} {regForm : Reg8 → Instr} {memForm i : Instr}
    (hwf : ∀ r, (regForm r).wellFormed = true) (hwfMem : memForm.wellFormed = true)
    (hencode : ∀ r, encode (regForm r) = [opcodeXYZ 2 y (fieldOfReg8 r)])
    (hencodeMem : encode memForm = [opcodeXYZ 2 y 6]) (hx : opX op = 2) (hy : opY op = y)
    (hi : (∃ r, reg8OfField (opZ op) = some r ∧ i = regForm r) ∨ opZ op = 6 ∧ i = memForm) (tail : List Byte) :
    AcceptsEncoding (op :: tail) (.ok (i, tail)) := by
  rcases hi with ⟨r, hr, rfl⟩ | ⟨hz, rfl⟩
  · refine acceptsEncoding_ok (hwf r) ?_
    rw [hencode, ← eq_opcodeXYZ hx hy (fieldOfReg8_reg8OfField hr).symm]
    rfl
  · refine acceptsEncoding_ok hwfMem ?_
    rw [hencodeMem, ← eq_opcodeXYZ hx hy hz]
    rfl

theorem acceptsEncoding_decodeX2 {op : Byte} (hx : opX op = 2) (tail : List Byte) :
    AcceptsEncoding (op :: tail) (decodeX2 op tail) := by
  rcases decodeX2_cases op tail with ⟨hy, i, h, hi⟩ | ⟨hy, i, h, hi⟩ | ⟨hy, i, h, hi⟩ | ⟨-, -, -, h⟩ <;> rw [h]
  · exact acceptsEncoding_accumulatorRow (fun _ => rfl) rfl (fun _ => rfl) rfl hx hy hi tail
  · exact acceptsEncoding_accumulatorRow (fun _ => rfl) rfl (fun _ => rfl) rfl hx hy hi tail
  · exact acceptsEncoding_accumulatorRow (fun _ => rfl) rfl (fun _ => rfl) rfl hx hy hi tail
  · exact acceptsEncoding_error

theorem acceptsEncoding_decodeCB (tail : List Byte) : AcceptsEncoding (0xCB :: tail) (decodeCB tail) := by
  cases tail with
  | nil => exact acceptsEncoding_error
  | cons op2 rest =>
    by_cases hx : opX op2 = 1
    · by_cases hz : opZ op2 = 6
      · rw [decodeCB_of_six rest hx hz]
        exact acceptsEncoding_ok rfl (congrArg (0xCB :: · :: rest) (eq_opcodeXYZ hx rfl hz))
      · obtain ⟨r, hr⟩ := exists_reg8OfField hz
        have hop := eq_opcodeXYZ hx rfl (fieldOfReg8_reg8OfField hr).symm
        rw [decodeCB_of_field rest hx hr]
        exact acceptsEncoding_ok rfl (congrArg (0xCB :: · :: rest) hop)
    · rw [decodeCB_illegal rest hx]; exact acceptsEncoding_error

/-- The four bytes of ADC HL,ss are the bytes with x = 1, q = 1 and z = 2. -/
theorem adcHl_fields {op2 : Byte} (h : op2 = 0x4A ∨ op2 = 0x5A ∨ op2 = 0x6A ∨ op2 = 0x7A) :
    opX op2 = 1 ∧ opQ op2 = 1 ∧ opZ op2 = 2 := by
  rcases h with rfl | rfl | rfl | rfl <;> decide

theorem acceptsEncoding_decodeED (tail : List Byte) : AcceptsEncoding (0xED :: tail) (decodeED tail) := by
  cases tail with
  | nil => exact acceptsEncoding_error
  | cons op2 rest =>
    by_cases h : op2 = 0x4A ∨ op2 = 0x5A ∨ op2 = 0x6A ∨ op2 = 0x7A
    · obtain ⟨hx, hq, hz⟩ := adcHl_fields h
      rw [decodeED_adcHl rest h]
      refine acceptsEncoding_ok rfl ?_
      rw [encode, fieldOfPair_pairOfField, ← eq_opcodeXPQZ hx hq hz]
      rfl
    · rw [decodeED_illegal rest h]; exact acceptsEncoding_error

theorem acceptsEncoding_indexPage {op1 : Byte} {ldNn : Word → Instr} {add adc and : Byte → Instr}
    (hld : ∀ nn, (ldNn nn).wellFormed = true ∧ encode (ldNn nn) = [op1, 0x21, loByte nn, hiByte nn])
    (hadd : ∀ d, (add d).wellFormed = true ∧ encode (add d) = [op1, 0x86, d])
    (hadc : ∀ d, (adc d).wellFormed = true ∧ encode (adc d) = [op1, 0x8E, d])
    (hand : ∀ d, (and d).wellFormed = true ∧ encode (and d) = [op1, 0xA6, d]) (op2 : Byte) (rest : List Byte) :
    AcceptsEncoding (op1 :: op2 :: rest) (indexPage op1 ldNn add adc and op2 rest) := by
  unfold indexPage
  split_ifs with h21 h86 h8E hA6
  · subst h21
    exact acceptsEncoding_decodeImm16 (opcode := [op1, 0x21]) (fun nn => (hld nn).1) (fun nn => (hld nn).2) rest
  · subst h86
    exact acceptsEncoding_decodeImm8 (opcode := [op1, 0x86]) (fun d => (hadd d).1) (fun d => (hadd d).2) rest
  · subst h8E
    exact acceptsEncoding_decodeImm8 (opcode := [op1, 0x8E]) (fun d => (hadc d).1) (fun d => (hadc d).2) rest
  · subst hA6
    exact acceptsEncoding_decodeImm8 (opcode := [op1, 0xA6]) (fun d => (hand d).1) (fun d => (hand d).2) rest
  · exact acceptsEncoding_error

theorem acceptsEncoding_decodeDD (tail : List Byte) : AcceptsEncoding (0xDD :: tail) (decodeDD tail) := by
  cases tail with
  | nil => exact acceptsEncoding_error
  | cons op2 rest =>
    rw [decodeDD_cons]
    exact acceptsEncoding_indexPage (fun _ => ⟨rfl, rfl⟩) (fun _ => ⟨rfl, rfl⟩) (fun _ => ⟨rfl, rfl⟩)
      (fun _ => ⟨rfl, rfl⟩) op2 rest

theorem acceptsEncoding_decodeFD (tail : List Byte) : AcceptsEncoding (0xFD :: tail) (decodeFD tail) := by
  cases tail with
  | nil => exact acceptsEncoding_error
  | cons op2 rest =>
    rw [decodeFD_cons]
    exact acceptsEncoding_indexPage (fun _ => ⟨rfl, rfl⟩) (fun _ => ⟨rfl, rfl⟩) (fun _ => ⟨rfl, rfl⟩)
      (fun _ => ⟨rfl, rfl⟩) op2 rest

theorem acceptsEncoding_decodeX3 (op : Byte) (tail : List Byte) :
    AcceptsEncoding (op :: tail) (decodeX3 op tail) := by
  rcases decodeX3_cases op tail with ⟨rfl, h⟩ | ⟨rfl, h⟩ | ⟨rfl, h⟩ | ⟨rfl, h⟩ | ⟨rfl, h⟩ | ⟨rfl, h⟩ | ⟨rfl, h⟩ |
    ⟨rfl, h⟩ | ⟨rfl, h⟩ | ⟨rfl, h⟩ | ⟨-, -, -, -, -, -, -, -, -, -, h⟩ <;> rw [h]
  · exact acceptsEncoding_decodeImm16 (opcode := [0xC3]) (fun _ => rfl) (fun _ => rfl) tail
  · exact acceptsEncoding_decodeCB tail
  · exact acceptsEncoding_decodeImm8 (opcode := [0xD3]) (fun _ => rfl) (fun _ => rfl) tail
  · exact acceptsEncoding_ok rfl rfl
  · exact acceptsEncoding_decodeImm8 (opcode := [0xDB]) (fun _ => rfl) (fun _ => rfl) tail
  · exact acceptsEncoding_decodeDD tail
  · exact acceptsEncoding_ok rfl rfl
  · exact acceptsEncoding_decodeED tail
  · exact acceptsEncoding_decodeFD tail
  · exact acceptsEncoding_decodeImm8 (opcode := [0xFE]) (fun _ => rfl) (fun _ => rfl) tail
  · exact acceptsEncoding_error

theorem acceptsEncoding_decode (bytes : List Byte) : AcceptsEncoding bytes (decode bytes) := by
  cases bytes with
  | nil => exact acceptsEncoding_error
  | cons op tail =>
    rcases decode_cons op tail with ⟨hx, h⟩ | ⟨hx, h⟩ | ⟨hx, h⟩ | ⟨-, h⟩ <;> rw [h]
    · exact acceptsEncoding_decodeX0 hx tail
    · exact acceptsEncoding_decodeX1 hx tail
    · exact acceptsEncoding_decodeX2 hx tail
    · exact acceptsEncoding_decodeX3 op tail

/-- Settles O8: each page of the decoder accepts a byte only as the opcode byte of the fields it reads. -/
theorem decodedBytesAreTheEncoding : Obligations.DecodedBytesAreTheEncoding :=
  fun bytes rest i => acceptsEncoding_decode bytes i rest

/-! ### Which unprefixed bytes are Illegal (R118) -/

/-- A verdict on a first byte as the list of R118 has it. -/
def AsListed (op : Byte) (verdict : DecodeResult) : Prop :=
  (listedIllegal op = true ∧ verdict = .error (.illegal [op])) ∨
    (listedIllegal op = false ∧ ∃ i after, verdict = .ok (i, after))

section
variable {op : Byte}

theorem asListed_ok (h : listedIllegal op = false) (i : Instr) (after : List Byte) :
    AsListed op (.ok (i, after)) :=
  .inr ⟨h, i, after, rfl⟩

theorem asListed_decodeImm8 (h : listedIllegal op = false) (k : Byte → Instr) (n : Byte) (rest : List Byte) :
    AsListed op (decodeImm8 k (n :: rest)) :=
  asListed_ok h (k n) rest

theorem asListed_decodeImm16 (h : listedIllegal op = false) (k : Word → Instr) (lo hi : Byte) (rest : List Byte) :
    AsListed op (decodeImm16 k (lo :: hi :: rest)) :=
  asListed_ok h (k (joinBytes hi lo)) rest

theorem asListed_illegal (h : listedIllegal op = true) : AsListed op (.error (.illegal [op])) := .inl ⟨h, rfl⟩

/-! Each page's share of the list, read off by the fields of the byte. -/

set_option maxRecDepth 8000 in
theorem listedIllegal_of_opZ (hx : opX op = 0) (hz : opZ op = 6 ∨ opZ op = 1) : listedIllegal op = false := by
  revert op; decide

set_option maxRecDepth 8000 in
theorem listedIllegal_x0 (hx : opX op = 0) (hz : opZ op ≠ 6 ∧ opZ op ≠ 1)
    (hop : op ∉ [0x00, 0x08, 0x18, 0x20, 0x28]) : listedIllegal op = true := by
  revert op; decide

set_option maxRecDepth 8000 in
theorem listedIllegal_x1 (hx : opX op = 1) : listedIllegal op = false := by
  revert op; decide

set_option maxRecDepth 8000 in
theorem listedIllegal_x2_of_row (hx : opX op = 2) (hy : opY op = 0 ∨ opY op = 1 ∨ opY op = 4) :
    listedIllegal op = false := by
  revert op; decide

set_option maxRecDepth 8000 in
theorem listedIllegal_x2 (hx : opX op = 2) (hy : opY op ≠ 0 ∧ opY op ≠ 1 ∧ opY op ≠ 4) :
    listedIllegal op = true := by
  revert op; decide

set_option maxRecDepth 8000 in
theorem listedIllegal_x3 (hx : opX op = 3)
    (hop : op ∉ [0xC3, 0xCB, 0xD3, 0xD9, 0xDB, 0xDD, 0xEB, 0xED, 0xFD, 0xFE]) : listedIllegal op = true := by
  revert op; decide

theorem asListed_decodeX0 (hx : opX op = 0) (b c : Byte) (rest : List Byte) :
    AsListed op (decodeX0 op (b :: c :: rest)) := by
  rcases decodeX0_cases op (b :: c :: rest) with ⟨rfl, h⟩ | ⟨rfl, h⟩ | ⟨rfl, h⟩ | ⟨rfl, h⟩ | ⟨rfl, h⟩ | ⟨rfl, h⟩ |
    ⟨rfl, h⟩ | ⟨hmem, ha, hz, h⟩ | ⟨hz, -, h⟩ | ⟨hz, -, h⟩ | ⟨h00, h08, h18, h20, h28, h6, h1, h⟩
  · rw [h]; exact asListed_ok rfl ..
  · rw [h]; exact asListed_ok rfl ..
  · rw [h]; exact asListed_decodeImm8 rfl ..
  · rw [h]; exact asListed_decodeImm8 rfl ..
  · rw [h]; exact asListed_decodeImm8 rfl ..
  · rw [h]; exact asListed_decodeImm8 rfl ..
  · rw [h]; exact asListed_decodeImm8 rfl ..
  · obtain ⟨r, hr, -⟩ := ldRN_register hx hz hmem ha
    rw [h r hr]
    exact asListed_decodeImm8 (listedIllegal_of_opZ hx (.inl hz)) ..
  · rw [h]; exact asListed_decodeImm16 (listedIllegal_of_opZ hx (.inr hz)) ..
  · rw [h]; exact asListed_ok (listedIllegal_of_opZ hx (.inr hz)) ..
  · rw [h]
    refine asListed_illegal (listedIllegal_x0 hx ⟨h6, h1⟩ ?_)
    simpa only [List.mem_cons, List.not_mem_nil, or_false, not_or] using ⟨h00, h08, h18, h20, h28⟩

theorem asListed_decodeX1 (hx : opX op = 1) (rest : List Byte) : AsListed op (decodeX1 op rest) := by
  unfold decodeX1
  split <;> exact asListed_ok (listedIllegal_x1 hx) _ rest

theorem asListed_decodeX2 (hx : opX op = 2) (rest : List Byte) : AsListed op (decodeX2 op rest) := by
  rcases decodeX2_cases op rest with ⟨hy, i, h, -⟩ | ⟨hy, i, h, -⟩ | ⟨hy, i, h, -⟩ | ⟨h0, h1, h4, h⟩ <;> rw [h]
  · exact asListed_ok (listedIllegal_x2_of_row hx (.inl hy)) i rest
  · exact asListed_ok (listedIllegal_x2_of_row hx (.inr (.inl hy))) i rest
  · exact asListed_ok (listedIllegal_x2_of_row hx (.inr (.inr hy))) i rest
  · exact asListed_illegal (listedIllegal_x2 hx ⟨h0, h1, h4⟩)

theorem asListed_decodeX3 (hx : opX op = 3) (hCB : op ≠ 0xCB) (hDD : op ≠ 0xDD) (hED : op ≠ 0xED) (hFD : op ≠ 0xFD)
    (b c : Byte) (rest : List Byte) : AsListed op (decodeX3 op (b :: c :: rest)) := by
  rcases decodeX3_cases op (b :: c :: rest) with ⟨rfl, h⟩ | ⟨hop, -⟩ | ⟨rfl, h⟩ | ⟨rfl, h⟩ | ⟨rfl, h⟩ | ⟨hop, -⟩ |
    ⟨rfl, h⟩ | ⟨hop, -⟩ | ⟨hop, -⟩ | ⟨rfl, h⟩ | ⟨hC3, -, hD3, hD9, hDB, -, hEB, -, -, hFE, h⟩
  · rw [h]; exact asListed_decodeImm16 rfl ..
  · exact absurd hop hCB
  · rw [h]; exact asListed_decodeImm8 rfl ..
  · rw [h]; exact asListed_ok rfl ..
  · rw [h]; exact asListed_decodeImm8 rfl ..
  · exact absurd hop hDD
  · rw [h]; exact asListed_ok rfl ..
  · exact absurd hop hED
  · exact absurd hop hFD
  · rw [h]; exact asListed_decodeImm8 rfl ..
  · rw [h]
    refine asListed_illegal (listedIllegal_x3 hx ?_)
    simpa only [List.mem_cons, List.not_mem_nil, or_false, not_or] using
      ⟨hC3, hCB, hD3, hD9, hDB, hDD, hEB, hED, hFD, hFE⟩

theorem asListed_decode (hCB : op ≠ 0xCB) (hDD : op ≠ 0xDD) (hED : op ≠ 0xED) (hFD : op ≠ 0xFD) (b c : Byte)
    (rest : List Byte) : AsListed op (decode (op :: b :: c :: rest)) := by
  rcases decode_cons op (b :: c :: rest) with ⟨hx, h⟩ | ⟨hx, h⟩ | ⟨hx, h⟩ | ⟨hx, h⟩ <;> rw [h]
  · exact asListed_decodeX0 hx b c rest
  · exact asListed_decodeX1 hx _
  · exact asListed_decodeX2 hx _
  · exact asListed_decodeX3 hx hCB hDD hED hFD b c rest

end

/-- Settles O12: on each page of the decoder the list and the verdict agree. -/
theorem unprefixedIllegalBytes : Obligations.UnprefixedIllegalBytes := by
  intro op b c rest hCB hDD hED hFD
  rcases asListed_decode hCB hDD hED hFD b c rest with ⟨hlisted, h⟩ | ⟨hlisted, h⟩
  · exact ⟨fun _ => h, fun hfree => nomatch hlisted.symm.trans hfree⟩
  · exact ⟨fun hillegal => (nomatch hlisted.symm.trans hillegal), fun _ => h⟩

/-- Settles O13, by evaluating the decoder on the eight words. -/
theorem sampleWordsDecode : Obligations.SampleWordsDecode := ⟨rfl, rfl, rfl, rfl, rfl, rfl, rfl, rfl⟩

end Sys2Proof.Proofs
end

section
/-! PROOFS. What an instruction can write, said once for all of them, and the rules over all instructions that follow:
PC (40_control.md R150), F (10_state.md R36, R37), the shadow set (R32), IX, IY and SP (R33) and memory. -/

namespace Sys2Proof.Proofs

open Sys2Proof.Machine Sys2Proof.Laws Sys2Proof.Safety

/-! ### Every instruction completes -/

theorem exists_next_inAN (n : Byte) (s : State) : ∃ t, exec (.inAN n) s = .next t := by
  cases h : portIn n ((s.advance 2).stop (.portIn n)) with
  | ok r => exact ⟨_, exec_inAN_of_ok h⟩
  | error f => exact ⟨_, exec_inAN_of_error h⟩

theorem exists_next_outNA (n : Byte) (s : State) : ∃ t, exec (.outNA n) s = .next t := by
  cases h : portOut n s.main.a ((s.advance 2).stop (.portOut n s.main.a)) with
  | ok u => exact ⟨_, exec_outNA_of_ok h⟩
  | error f => exact ⟨_, exec_outNA_of_error h⟩

/-- Settles O34: a port instruction completes whether its port operation succeeds or faults, and every other
instruction's meaning is a next state. -/
theorem everyInstructionCompletes : Obligations.EveryInstructionCompletes := by
  intro i s
  cases i
  case inAN n => exact exists_next_inAN n s
  case outNA n => exact exists_next_outNA n s
  all_goals exact ⟨_, rfl⟩

/-! ### What an instruction writes -/

/-- The state's PC past the instruction. -/
def pcAfter (i : Instr) (s : State) : Word := s.pc + BitVec.ofNat 16 (instrLength i)

/-- What the instruction `i` can make of the state `s`: one shape for each set of things it writes besides PC. -/
inductive Effect (i : Instr) (s : State) : State → Prop
  /-- NOP, HALT and the jumps: PC, and the driver's record of a stop. -/
  | control (pc : Word) (driver : Driver) (hflow : assignsPc i = false → pc = pcAfter i s) :
      Effect i s { s with pc := pc, driver := driver }
  /-- The main register set. -/
  | main (bank : Bank) (hunused : KeepsUnused s.main.f bank.f) (hf : writesF i = false → bank.f = s.main.f) :
      Effect i s { s with main := bank, pc := pcAfter i s }
  | sp (nn : Word) (hi : i = .ldDdNn .sp nn) : Effect i s { s with sp := nn, pc := pcAfter i s }
  | ix (nn : Word) (hi : i = .ldIxNn nn) : Effect i s { s with ix := nn, pc := pcAfter i s }
  | iy (nn : Word) (hi : i = .ldIyNn nn) : Effect i s { s with iy := nn, pc := pcAfter i s }
  | store (v : Byte) (hi : (∃ n, i = .ldHlN n) ∨ ∃ r, i = .ldHlR r) :
      Effect i s { s with mem := memWrite s.mem (s.main.h ++ s.main.l) v, pc := pcAfter i s }
  | exx (hi : i = .exx) : Effect i s { s with
      main := { s.alt with a := s.main.a, f := s.main.f }
      alt := { s.main with a := s.alt.a, f := s.alt.f }
      pc := pcAfter i s }
  | exAfAf (hi : i = .exAfAf) : Effect i s { s with
      main := { s.main with a := s.alt.a, f := s.alt.f }
      alt := { s.alt with a := s.main.a, f := s.main.f }
      pc := pcAfter i s }
  /-- IN and OUT: A, the devices, the driver's record and, by disk command 4, memory. -/
  | port (bank : Bank) (mem : Store) (console : Console) (disk : Disk) (driver : Driver) (hi : isPort i = true)
      (hf : bank.f = s.main.f)
      (hmem : mem = s.mem ∨ (i = .outNA 10 ∧ s.main.a = 4 ∧ mem = diskCopyToAddr s.disk s.mem)) :
      Effect i s { s with
        main := bank, mem := mem, console := console, disk := disk, driver := driver, pc := pcAfter i s }

theorem keepsUnused_of_eq {f f' : Byte} (h : f' = f) : KeepsUnused f f' := by
  rw [h]
  exact ⟨rfl, rfl⟩

section
variable {i : Instr} {s : State}

/-- The effect of an instruction that writes registers of the main set but not F. -/
theorem effect_main_of_same_f (bank : Bank) (h : bank.f = s.main.f) :
    Effect i s { s with main := bank, pc := pcAfter i s } :=
  .main bank (keepsUnused_of_eq h) fun _ => h

/-- The effect of an instruction that writes F among the main set. -/
theorem effect_main_of_writesF (bank : Bank) (hwrites : writesF i = true) (hunused : KeepsUnused s.main.f bank.f) :
    Effect i s { s with main := bank, pc := pcAfter i s } :=
  .main bank hunused fun h => nomatch hwrites.symm.trans h

/-- The effect of an instruction that writes A and F by `add8`. -/
theorem effect_add8 (v : Byte) (cin : Bool) (hwrites : writesF i = true) :
    Effect i s { s.setAF (add8 s.main.f s.main.a v cin) with pc := pcAfter i s } :=
  effect_main_of_writesF _ hwrites (add8_keeps_unused s.main.f s.main.a v cin)

theorem effect_and8 (v : Byte) (hwrites : writesF i = true) :
    Effect i s { s.setAF (and8 s.main.f s.main.a v) with pc := pcAfter i s } :=
  effect_main_of_writesF _ hwrites (and8_keeps_unused s.main.f s.main.a v)

theorem effect_add16 (w : Word) (cin full : Bool) (hwrites : writesF i = true) :
    Effect i s { s.setHlF (add16 s.main.f s.main.hl w cin full) with pc := pcAfter i s } :=
  effect_main_of_writesF _ hwrites (add16_keeps_unused s.main.f s.main.hl w cin full)

theorem effect_bitFlags (k : BitVec 3) (v : Byte) (hwrites : writesF i = true) :
    Effect i s { s.setF (bitFlags s.main.f v k) with pc := pcAfter i s } :=
  effect_main_of_writesF _ hwrites (bitFlags_keeps_unused s.main.f v k)

theorem effect_setPair (p : Pair) (nn : Word) : Effect (.ldDdNn p nn) s ((s.advance 3).setPair p nn) := by
  cases p with
  | sp => exact .sp nn rfl
  | bc | de | hl => exact effect_main_of_same_f _ rfl

end

theorem effect_inAN {n : Byte} {s t : State} (h : exec (.inAN n) s = .next t) : Effect (.inAN n) s t := by
  cases hport : portIn n ((s.advance 2).stop (.portIn n)) with
  | ok r =>
    obtain ⟨v, u⟩ := r
    rw [exec_inAN_of_ok hport] at h
    cases h
    rcases portIn_ok hport with rfl | rfl | rfl <;> exact .port _ _ _ _ _ rfl (bank_set_f ..) (.inl rfl)
  | error f =>
    rw [exec_inAN_of_error hport] at h
    cases h
    exact .port _ _ _ _ _ rfl rfl (.inl rfl)

theorem effect_outNA {n : Byte} {s t : State} (h : exec (.outNA n) s = .next t) : Effect (.outNA n) s t := by
  cases hport : portOut n s.main.a ((s.advance 2).stop (.portOut n s.main.a)) with
  | ok u =>
    rw [exec_outNA_of_ok hport] at h
    cases h
    have hmem : u.mem = s.mem ∨ (Instr.outNA n = .outNA 10 ∧ s.main.a = 4 ∧ u.mem = diskCopyToAddr s.disk s.mem) := by
      rcases portOut_mem hport with hmem | ⟨rfl, ha, hmem⟩
      · exact .inl hmem
      · exact .inr ⟨rfl, ha, hmem⟩
    rcases portOut_ok hport with rfl | ⟨after, rfl, -⟩ | ⟨-, r, -, rfl⟩ <;> exact .port _ _ _ _ _ rfl rfl hmem
  | error f =>
    rw [exec_outNA_of_error hport] at h
    cases h
    exact .port _ _ _ _ _ rfl rfl (.inl rfl)

/-- Every instruction has one of the effects. -/
theorem exec_effect {i : Instr} {s t : State} (h : exec i s = .next t) : Effect i s t := by
  cases i
  case nop | halt => cases h; exact .control _ _ fun _ => rfl
  case jrE e => rw [exec_jrE] at h; cases h; exact .control _ _ nofun
  case jrNzE e => rw [exec_jrNzE] at h; cases h; exact .control _ _ nofun
  case jrZE e => rw [exec_jrZE] at h; cases h; exact .control _ _ nofun
  case jpNn nn => cases h; exact .control _ _ nofun
  case ldAN | ldRN | ldRR | ldRHl => cases h; exact effect_main_of_same_f _ (bank_set_f ..)
  case ldHlN n => cases h; exact .store n (.inl ⟨n, rfl⟩)
  case ldHlR r => cases h; exact .store (s.getR8 r) (.inr ⟨r, rfl⟩)
  case ldDdNn p nn => cases h; exact effect_setPair p nn
  case ldIxNn nn => cases h; exact .ix nn rfl
  case ldIyNn nn => cases h; exact .iy nn rfl
  case exx => rw [exec_exx] at h; cases h; exact .exx rfl
  case exDeHl => cases h; exact effect_main_of_same_f _ rfl
  case exAfAf => rw [exec_exAfAf] at h; cases h; exact .exAfAf rfl
  case addAR | addAHl | addAIx | addAIy => cases h; exact effect_add8 _ _ rfl
  case adcAR | adcAHl | adcAIx | adcAIy => cases h; exact effect_add8 _ _ rfl
  case andR | andHl | andIx | andIy => cases h; exact effect_and8 _ rfl
  case cpN n => cases h; exact effect_main_of_writesF _ rfl (sub8flags_keeps_unused s.main.f s.main.a n)
  case addHlSs | adcHlSs => cases h; exact effect_add16 _ _ _ rfl
  case bitR | bitHl => cases h; exact effect_bitFlags _ _ rfl
  case inAN n => exact effect_inAN h
  case outNA n => exact effect_outNA h

/-! ### The rules over all instructions -/

/-- Settles O35: every effect but that of a jump leaves PC past the instruction. -/
theorem sequentialFlow : Obligations.SequentialFlow := by
  intro i s t hi h
  have hpc : t.pc = pcAfter i s := by
    cases exec_effect h with
    | control pc driver hflow => exact hflow hi
    | main | sp | ix | iy | store | exx | exAfAf | port => rfl
  rw [hpc, pcAfter, BitVec.toNat_add, BitVec.toNat_ofNat, Nat.add_mod_mod]

/-- Settles O36: F is kept, or written by a flag rule that keeps both bits. -/
theorem unusedFlagBitsKept : Obligations.UnusedFlagBitsKept := by
  intro i s t hi h
  cases exec_effect h with
  | main bank hunused hf => exact hunused
  | exAfAf hex => exact absurd hex hi
  | port _ _ _ _ _ _ hf => exact keepsUnused_of_eq hf
  | control | sp | ix | iy | store | exx => exact ⟨rfl, rfl⟩

/-- Settles O37: F is written only in the main set, by a flag writer, and by EX AF,AF'. -/
theorem onlyFlagWritersWriteF : Obligations.OnlyFlagWritersWriteF := by
  intro i s t hi h
  cases exec_effect h with
  | main bank hunused hf => exact hf hi
  | exAfAf hex => rw [hex] at hi; cases hi
  | port _ _ _ _ _ _ hf => exact hf
  | control | sp | ix | iy | store | exx => rfl

/-- Settles O38: EXX gives the shadow set all registers of the main set but A and F, EX AF,AF' those two. -/
theorem onlyExchangesWriteShadow : Obligations.OnlyExchangesWriteShadow := by
  intro i s t h
  cases exec_effect h with
  | exx hex => exact ⟨fun _ => ⟨rfl, rfl⟩, fun hi => absurd hex hi⟩
  | exAfAf hex => exact ⟨fun hi => absurd hex hi, fun _ r hr => bank_get_with_a_f s.alt _ _ hr⟩
  | control | main | sp | ix | iy | store | port => exact ⟨fun _ => ⟨rfl, rfl⟩, fun _ _ _ => rfl⟩

/-- Settles O39: each of the three registers has one effect that writes it. -/
theorem onlyLoadsWriteIndexAndSp : Obligations.OnlyLoadsWriteIndexAndSp := by
  intro i s t h
  cases exec_effect h with
  | sp nn hload => exact ⟨fun _ => rfl, fun _ => rfl, fun hi => absurd hload (hi nn)⟩
  | ix nn hload => exact ⟨fun hi => absurd hload (hi nn), fun _ => rfl, fun _ => rfl⟩
  | iy nn hload => exact ⟨fun _ => rfl, fun hi => absurd hload (hi nn), fun _ => rfl⟩
  | control | main | store | exx | exAfAf | port => exact ⟨fun _ => rfl, fun _ => rfl, fun _ => rfl⟩

/-- What an instruction can do to memory: nothing, one byte at HL, or disk command 4. -/
theorem exec_mem {i : Instr} {s t : State} (h : exec i s = .next t) :
    t.mem = s.mem ∨
      (((∃ n, i = .ldHlN n) ∨ ∃ r, i = .ldHlR r) ∧ ∃ v, t.mem = memWrite s.mem (s.main.h ++ s.main.l) v) ∨
      (i = .outNA 10 ∧ s.main.a = 4 ∧ t.mem = diskCopyToAddr s.disk s.mem) := by
  cases exec_effect h with
  | store v hi => exact .inr (.inl ⟨hi, v, rfl⟩)
  | port _ mem _ _ _ _ _ hmem =>
    rcases hmem with hmem | hmem
    · exact .inl hmem
    · exact .inr (.inr hmem)
  | control | main | sp | ix | iy | exx | exAfAf => exact .inl rfl

/-- Command 4 changes no byte while Busy, and none outside the 128 from the transfer address on. -/
theorem diskCopyToAddr_changes {d : Disk} {m : Store} {a : Word} (h : memRead (diskCopyToAddr d m) a ≠ memRead m a) :
    d.status ≠ .busy ∧ ∃ k < 128, a = d.addr + BitVec.ofNat 16 k := by
  have hfree : d.status ≠ .busy := fun hbusy => h (by rw [diskCopyToAddr_of_busy m hbusy])
  refine ⟨hfree, ?_⟩
  by_contra! houtside
  rw [diskCopyToAddr_of_not_busy m hfree] at h
  exact h (memRead_memInstall_outside m d.addr a _ (by simpa using houtside))

/-- Settles O40: a byte that reads differently is the one stored at HL, or one of the 128 that command 4 copies. -/
theorem onlyStoresWriteMemory : Obligations.OnlyStoresWriteMemory := by
  intro i s t a h hchanged
  rcases exec_mem h with hmem | ⟨hi, v, hmem⟩ | ⟨hi, ha, hmem⟩ <;> rw [hmem] at hchanged
  · exact absurd rfl hchanged
  · exact .inl ⟨hi, by_contra fun hne => hchanged (memRead_memWrite_ne s.mem v hne)⟩
  · exact .inr ⟨hi, ha, diskCopyToAddr_changes hchanged⟩

end Sys2Proof.Proofs
end

section
/-! PROOFS. The CPU's step (60_exceptions.md R381 to R383), what it starts from (70_reset_and_hazards.md R423), and
what separates the CPU from the devices (20_memory.md R91, 43_port_io.md R270, R271). -/

namespace Sys2Proof.Proofs

open Sys2Proof.Machine Sys2Proof.Laws Sys2Proof.Safety

/-- Settles O2: `State.reset` has the zero bank in both register sets and 0 in the other registers. -/
theorem resetEntryPoint : Obligations.ResetEntryPoint :=
  ⟨rfl, rfl, rfl, rfl, bank_get_zero, rfl, bank_get_zero, rfl⟩

/-! ### The instruction at PC (30_encoding.md R117) -/

theorem fetchDecode_of_decode_ok {s : State} {i : Instr} {rest : List Byte}
    (h : decode (memBytes s.mem s.pc 4) = .ok (i, rest)) : fetchDecode s = .ok i := by
  rw [fetchDecode, State.fetchWindow, h]
  rfl

/-- A running CPU executes the instruction it fetches. -/
theorem cpuStep_of_fetch_ok {s : State} {i : Instr} (hended : s.driver.ended = false)
    (hbudget : s.driver.budget ≠ some s.driver.count) (hfetch : fetchDecode s = .ok i) :
    cpuStep s = exec i s.countInstr := by
  simp [cpuStep, cpuEnabled, budgetUsed, hended, hbudget, hfetch]

/-- Settles O15: the CPU's step fetches, counts and executes, in the state whose move is taken. -/
theorem stepRunsDecodedInstruction : Obligations.StepRunsDecodedInstruction := by
  intro s i rest hruns hdecode
  have ⟨_, _, hended, hbudget⟩ := hruns
  rw [step_of_cpuRuns hruns]
  exact cpuStep_of_fetch_ok (s := takeMove s) hended hbudget (fetchDecode_of_decode_ok hdecode)

theorem instrLength_le_four (i : Instr) : instrLength i ≤ 4 := by
  unfold instrLength
  split <;> omega

/-- The four bytes of the fetch start with the instruction's own. -/
theorem memBytes_four_of_encode {m : Store} {a : Word} {i : Instr} (h : memBytes m a (instrLength i) = encode i) :
    ∃ rest, memBytes m a 4 = encode i ++ rest := by
  obtain ⟨k, hk⟩ := Nat.exists_eq_add_of_le (instrLength_le_four i)
  exact ⟨_, by rw [hk, memBytes_append, h]⟩

/-- Settles O16: the fetch reads the encoding and bytes after it, which decode to the instruction. -/
theorem stepRunsEncodedInstruction : Obligations.StepRunsEncodedInstruction := by
  intro s i hruns hwf hmem
  obtain ⟨rest, hwindow⟩ := memBytes_four_of_encode hmem
  have hdecode : decode (memBytes s.mem s.pc 4) = .ok (i, rest) := by rw [hwindow, encodedAs_encode hwf]
  exact stepRunsDecodedInstruction s i rest hruns hdecode

/-! ### Stops (60_exceptions.md R381, R383) -/

theorem exists_next_cpuStep (s : State) : ∃ t, cpuStep s = .next t := by
  unfold cpuStep
  split
  · split
    · exact ⟨_, rfl⟩
    · split
      · exact everyInstructionCompletes _ _
      · exact ⟨_, rfl⟩
  · exact ⟨_, rfl⟩

theorem exists_next_moveStep (m : Move) (tick : Nat) (s : State) : ∃ t, moveStep m tick s = .next t := by
  cases m with
  | host a => exact ⟨_, rfl⟩
  | agent who =>
    cases who with
    | cpu => exact exists_next_cpuStep s
    | consoleInput | consoleOutput | disk => exact ⟨_, rfl⟩

/-- Settles O18: every mover's step completes, so a step that answers no next state answers the fault recorded. -/
theorem onlyRecordedFaultsStop : Obligations.OnlyRecordedFaultsStop := by
  intro s
  cases hfault : s.driver.fault with
  | some f => simp [step_of_fault hfault]
  | none =>
    obtain ⟨t, hnext⟩ := exists_next_moveStep (nextMove s) s.tick (takeMove s)
    simp [step_of_no_fault hfault, hnext]

/-- A used-up budget is noticed before the fetch. -/
theorem cpuStep_of_budget_used {s : State} (hended : s.driver.ended = false)
    (hbudget : s.driver.budget = some s.driver.count) : cpuStep s = .next s.timeslice := by
  simp [cpuStep, cpuEnabled, budgetUsed, hended, hbudget]

/-- Settles O19: the step is `timeslice`, which writes the driver's record alone. -/
theorem timesliceExpires : Obligations.TimesliceExpires := by
  intro s hmoves hended hbudget
  have ⟨hfault, _⟩ := hmoves
  have hstep : step s = .next (takeMove s).timeslice := by
    rw [step_of_moves hmoves]
    exact cpuStep_of_budget_used (s := takeMove s) hended hbudget
  exact ⟨_, hstep, rfl, ⟨rfl, rfl, rfl, rfl⟩, rfl, fun _ => rfl, rfl, rfl, rfl, hfault⟩

/-! ### The CPU's own part of the state -/

/-- The CPU's registers and memory. -/
structure CpuPart where
  main : Bank
  alt : Bank
  ix : Word
  iy : Word
  sp : Word
  pc : Word
  mem : Store

/-- The state with another CPU part; the devices, the driver and the bookkeeping stay. -/
def withCpu (s : State) (c : CpuPart) : State :=
  { s with main := c.main, alt := c.alt, ix := c.ix, iy := c.iy, sp := c.sp, pc := c.pc, mem := c.mem }

/-- The CPU part of a state. -/
def cpuPart (s : State) : CpuPart := ⟨s.main, s.alt, s.ix, s.iy, s.sp, s.pc, s.mem⟩

theorem withCpu_cpuPart (s : State) : withCpu s (cpuPart s) = s := rfl

/-- An instruction that is no port instruction answers a CPU part that depends on the CPU part alone, and of the
rest of the state it writes the driver's record at most. -/
theorem exec_withCpu {i : Instr} {s t : State} (hi : isPort i = false) (h : exec i s = .next t) (s' : State) :
    ∃ driver, exec i (withCpu s' (cpuPart s)) = .next { withCpu s' (cpuPart t) with driver := driver } := by
  cases i
  case inAN | outNA => cases hi
  case jrNzE e => rw [exec_jrNzE] at h; cases h; exact ⟨_, exec_jrNzE e _⟩
  case jrZE e => rw [exec_jrZE] at h; cases h; exact ⟨_, exec_jrZE e _⟩
  case ldDdNn p nn => cases h; cases p <;> exact ⟨_, rfl⟩
  all_goals (cases h; exact ⟨_, rfl⟩)

/-- Settles O41: the two runs start from the same CPU part, so they answer the same one. -/
theorem nonPortInstructionsIgnoreDevices : Obligations.NonPortInstructionsIgnoreDevices := by
  intro i s s' t t' hi hmain halt hix hiy hsp hpc hmem h h'
  have hs' : withCpu s' (cpuPart s) = s' := by
    simp only [withCpu, cpuPart, ← hmain, ← halt, ← hix, ← hiy, ← hsp, ← hpc, ← hmem]
  obtain ⟨d, hself⟩ := exec_withCpu hi h s
  obtain ⟨d', hother⟩ := exec_withCpu hi h s'
  rw [withCpu_cpuPart, h] at hself
  rw [hs', h'] at hother
  cases hother
  rw [Host.Outcome.next.inj hself]
  exact ⟨rfl, rfl, rfl, rfl, rfl, rfl, rfl, rfl, rfl⟩

/-! ### The port instructions, in every case (43_port_io.md section 1) -/

/-- What a port instruction keeps whose port operation faults. -/
theorem portKeeps_stop_raise (s : State) (written : List Reg8) (r : StopReason) (f : Fault) :
    PortKeeps written s (((s.advance 2).stop r).raise f) :=
  ⟨fun _ _ => rfl, rfl, ⟨rfl, rfl, rfl, rfl⟩, rfl, rfl, rfl, rfl, rfl⟩

theorem exec_inAN_frame {n : Byte} {s t : State} (h : exec (.inAN n) s = .next t) :
    PortKeeps [.a] s t ∧ SameMem s t ∧ t.pc = s.pc + 2 := by
  cases hport : portIn n ((s.advance 2).stop (.portIn n)) with
  | ok r =>
    obtain ⟨t', hexec, -, -, -, hmem, hpc, hkeeps, -⟩ := exists_next_of_portIn hport
    cases h.symm.trans hexec
    exact ⟨hkeeps, hmem, hpc⟩
  | error f =>
    cases h.symm.trans (exec_inAN_of_error hport)
    exact ⟨portKeeps_stop_raise .., fun _ => rfl, rfl⟩

theorem exec_outNA_frame {n : Byte} {s t : State} (h : exec (.outNA n) s = .next t) :
    PortKeeps [] s t ∧ t.pc = s.pc + 2 := by
  cases hport : portOut n s.main.a ((s.advance 2).stop (.portOut n s.main.a)) with
  | ok u =>
    obtain ⟨t', hexec, -, -, -, hpc, hkeeps, -⟩ := exists_next_of_portOut hport
    cases h.symm.trans hexec
    exact ⟨hkeeps, hpc⟩
  | error f =>
    cases h.symm.trans (exec_outNA_of_error hport)
    exact ⟨portKeeps_stop_raise .., rfl⟩

/-- Settles O42: the frames of the port operation that succeeds and of the one that faults. -/
theorem portInstructionFrame : Obligations.PortInstructionFrame :=
  fun _ _ _ => ⟨fun _ => rfl, fun _ => rfl, exec_inAN_frame, exec_outNA_frame⟩

end Sys2Proof.Proofs
end

section
/-! PROOFS. What every step keeps: a Busy disk's registers (45_disk.md R344), a stopped worker (R348), the CPU's part
in a worker's step (44_console.md R314, 20_memory.md R93), and the invariant. -/

namespace Sys2Proof.Proofs

open Sys2Proof.Machine Sys2Proof.Laws Sys2Proof.Safety

/-! ### While Busy (45_disk.md R344) -/

theorem exec_outNA_of_busy {n : Byte} {s t : State} (hbusy : s.disk.status = .busy)
    (h : exec (.outNA n) s = .next t) : t.disk = s.disk ∧ t.mem = s.mem := by
  cases hport : portOut n s.main.a ((s.advance 2).stop (.portOut n s.main.a)) with
  | error f =>
    cases h.symm.trans (exec_outNA_of_error hport)
    exact ⟨rfl, rfl⟩
  | ok u =>
    cases h.symm.trans (exec_outNA_of_ok hport)
    rcases portOut_ok hport with rfl | ⟨after, rfl, -⟩ | ⟨-, r, hcommand, rfl⟩
    · exact ⟨rfl, rfl⟩
    · exact ⟨diskUnlessBusy_of_busy after hbusy, rfl⟩
    · rcases diskCommand_ok hcommand with ⟨c, rfl⟩ | rfl | rfl
      · exact ⟨diskDispatch_of_busy c hbusy, rfl⟩
      · exact ⟨diskUnlessBusy_of_busy _ hbusy, rfl⟩
      · exact ⟨rfl, diskCopyToAddr_of_busy s.mem hbusy⟩

/-- Two disks have the same control registers. -/
def SameControl (d d' : Disk) : Prop :=
  d'.head = d.head ∧ d'.track = d.track ∧ d'.sector = d.sector ∧ d'.addr = d.addr

theorem sameControl_refl (d : Disk) : SameControl d d := ⟨rfl, rfl, rfl, rfl⟩

theorem sameControl_diskStatusPoll (d : Disk) : SameControl d (diskStatusPoll d).2 := by
  unfold diskStatusPoll
  split <;> exact ⟨rfl, rfl, rfl, rfl⟩

theorem sameControl_diskHalt (d : Disk) : SameControl d (diskHalt d) := by
  unfold diskHalt
  split <;> exact ⟨rfl, rfl, rfl, rfl⟩

theorem sameControl_diskReport_diskPerform (d : Disk) (fails : Bool) (tick : Nat) (c : DiskCommand) :
    SameControl d (diskReport (diskPerform d fails tick c)) := by
  obtain ⟨buffer, image, latchHead, latchTrack, hperform, -⟩ := diskPerform_frame d fails tick c
  unfold diskReport
  rw [hperform]
  exact ⟨rfl, rfl, rfl, rfl⟩

theorem step_sameControl {s t : State} (hbusy : s.disk.status = .busy) (h : step s = .next t) :
    SameControl s.disk t.disk := by
  rcases step_disk h with hd | hd | ⟨_, _, _, _, hd⟩ | ⟨c, hd⟩ | hd | hd | ⟨c, fails, tick, -, -, hd⟩ <;> rw [hd]
  · exact sameControl_refl _
  · exact sameControl_diskStatusPoll _
  · rw [diskUnlessBusy_of_busy _ hbusy]; exact sameControl_refl _
  · rw [diskDispatch_of_busy c hbusy]; exact sameControl_refl _
  · rw [diskCopyFromAddr, diskUnlessBusy_of_busy _ hbusy]; exact sameControl_refl _
  · exact sameControl_diskHalt _
  · exact sameControl_diskReport_diskPerform ..

/-- Settles O52: every operation of an OUT is dropped while Busy, a bad command faults before the status is looked at,
and the poll, `halt()` and the worker write no control register. -/
theorem busyDropsOperations : Obligations.BusyDropsOperations := by
  refine ⟨fun s t n hbusy h => ?out, fun s t hfault hbusy hgt h => ?bad, fun s t => step_sameControl⟩
  case out =>
    obtain ⟨hdisk, hmem⟩ := exec_outNA_of_busy hbusy h
    exact ⟨hdisk, fun a => congrArg (memRead · a) hmem⟩
  case bad =>
    obtain ⟨u, hexec, hrecorded, -⟩ := badDiskCommandIsFatal s hfault hgt
    cases h.symm.trans hexec
    exact hrecorded

/-! ### The disk's `halt()` (45_disk.md R348) -/

theorem diskHalt_of_idle {d : Disk} (h : d.pending = none) : diskHalt d = { d with workerState := .stopped } := by
  simp only [diskHalt, h]

theorem diskHalt_of_running {d : Disk} (hpending : d.pending ≠ none) (hrunning : d.workerState = .running) :
    diskHalt d = { d with workerState := .stopping } := by
  obtain ⟨c, hc⟩ := Option.ne_none_iff_exists'.mp hpending
  simp only [diskHalt, hc, hrunning]

theorem diskHalt_of_stopped {d : Disk} (h : d.workerState = .stopped) : diskHalt d = d := by
  unfold diskHalt
  split
  next => rw [← h]
  next hrunning => rw [h] at hrunning; cases hrunning
  next => rfl

/-- The completion of a command: the result is reported and a queued stop takes hold. -/
theorem diskReport_diskPerform (d : Disk) (fails : Bool) (tick : Nat) (c : DiskCommand) :
    ∃ result buffer image lh lt, diskReport (diskPerform d fails tick c) =
      { d with buffer := buffer, image := image, latchHead := lh, latchTrack := lt, done := some result,
               pending := none, workerState := workerAfter d } ∧
      (image = d.image ∨ ∃ off bytes, image = diskStoreSector d off bytes) := by
  obtain ⟨buffer, image, lh, lt, hperform, himage⟩ := diskPerform_frame d fails tick c
  refine ⟨(diskPerform d fails tick c).2, buffer, image, lh, lt, ?_, himage⟩
  unfold diskReport
  rw [hperform]
  rfl

/-- The disk worker completes a pending command unless it is stopped. -/
theorem exists_step_of_pending_command {s : State} (hmoves : Moves .disk s) (hpending : s.disk.pending ≠ none)
    (hrunning : s.disk.workerState ≠ .stopped) :
    ∃ t, step s = .next t ∧ t.disk.pending = none ∧ t.disk.done ≠ none ∧ t.disk.workerState = workerAfter s.disk := by
  obtain ⟨c, hc⟩ := Option.ne_none_iff_exists'.mp hpending
  have hstep := diskWorkerStep_of_pending (s := takeMove s) (tick := s.tick) hc hrunning rfl
  refine ⟨_, by rw [step_of_moves hmoves, moveStep, hstep], ?_⟩
  obtain ⟨result, buffer, image, lh, lt, hdisk, -⟩ := diskReport_diskPerform s.disk _ s.tick c
  dsimp only [takeMove_disk]
  rw [hdisk]
  exact ⟨rfl, nofun, rfl⟩

/-- The worker of `d'` is stopped, and a command left pending in a Busy `d` is still so in `d'`. -/
def KeepsStopped (d d' : Disk) : Prop :=
  d'.workerState = .stopped ∧ (d.pending ≠ none → d.done = none → d.status = .busy →
    d'.pending = d.pending ∧ d'.done = none ∧ d'.status = .busy)

section
variable {d : Disk} (hstopped : d.workerState = .stopped)
include hstopped

theorem keepsStopped_refl : KeepsStopped d d := ⟨hstopped, fun _ hdone hbusy => ⟨rfl, hdone, hbusy⟩⟩

/-- An operation that is dropped while Busy and leaves the worker alone. -/
theorem keepsStopped_of_unless_busy {d' : Disk} (hbusy : d.status = .busy → d' = d)
    (hworker : d'.workerState = d.workerState) : KeepsStopped d d' := by
  refine ⟨hworker.trans hstopped, fun hp hdone hb => ?_⟩
  rw [hbusy hb]
  exact ⟨rfl, hdone, hb⟩

theorem keepsStopped_diskStatusPoll : KeepsStopped d (diskStatusPoll d).2 := by
  refine ⟨?_, fun _ hdone hbusy => ?_⟩
  · unfold diskStatusPoll
    split <;> exact hstopped
  · rw [diskStatusPoll_of_no_completion fun _ => hdone]
    exact ⟨rfl, hdone, hbusy⟩

end

theorem diskUnlessBusy_workerState {d after : Disk} (h : after.workerState = d.workerState) :
    (diskUnlessBusy d after).workerState = d.workerState := by
  unfold diskUnlessBusy
  split
  · rfl
  · exact h

theorem diskDispatch_workerState (d : Disk) (c : DiskCommand) : (diskDispatch d c).workerState = d.workerState := by
  unfold diskDispatch
  split_ifs <;> rfl

theorem step_keepsStopped {s t : State} (hstopped : s.disk.workerState = .stopped) (h : step s = .next t) :
    KeepsStopped s.disk t.disk := by
  rcases step_disk h with hd | hd | ⟨_, _, _, _, hd⟩ | ⟨c, hd⟩ | hd | hd | ⟨c, fails, tick, -, hrunning, -⟩
  case inr.inr.inr.inr.inr.inr => exact absurd hstopped hrunning
  all_goals rw [hd]
  · exact keepsStopped_refl hstopped
  · exact keepsStopped_diskStatusPoll hstopped
  · exact keepsStopped_of_unless_busy hstopped (diskUnlessBusy_of_busy _) (diskUnlessBusy_workerState rfl)
  · exact keepsStopped_of_unless_busy hstopped (diskDispatch_of_busy c) (diskDispatch_workerState ..)
  · exact keepsStopped_of_unless_busy hstopped (diskUnlessBusy_of_busy _) (diskUnlessBusy_workerState rfl)
  · rw [diskHalt_of_stopped hstopped]; exact keepsStopped_refl hstopped

/-- Settles O57: one lemma for each state `halt()` finds the worker in, the completion while stopping, and what every
step keeps of a stopped worker. -/
theorem diskHaltStopsTheWorker : Obligations.DiskHaltStopsTheWorker := by
  refine ⟨fun s => diskHalt_of_idle, fun s => diskHalt_of_running, fun s hmoves hpending hstopping => ?completes,
    fun s t => step_keepsStopped⟩
  case completes =>
    obtain ⟨t, hstep, hnone, hdone, hworker⟩ :=
      exists_step_of_pending_command hmoves hpending (by rw [hstopping]; nofun)
    exact ⟨t, hstep, hnone, hdone, by rw [hworker, workerAfter, if_pos hstopping]⟩

/-! ### A worker's step and the CPU's part of the state (44_console.md R314) -/

theorem inputWorkerStep_withCpu (tick : Nat) (s : State) (c : CpuPart) :
    inputWorkerStep tick (withCpu s c) = withCpu (inputWorkerStep tick s) c := by
  cases hstate : s.console.inputState with
  | ended => rw [inputWorkerStep_of_ended hstate, inputWorkerStep_of_ended (s := withCpu s c) hstate]
  | live =>
    obtain ⟨fails, o, hask⟩ : ∃ fails o, askOracle s.conFail (Config.conFail tick) = (fails, o) := ⟨_, _, rfl⟩
    cases fails with
    | true => rw [inputWorkerStep_of_fails hstate hask, inputWorkerStep_of_fails (s := withCpu s c) hstate hask]; rfl
    | false =>
      cases hnext : consoleNextInput s.console tick with
      | some b =>
        rw [inputWorkerStep_of_byte hstate hask hnext, inputWorkerStep_of_byte (s := withCpu s c) hstate hask hnext]
        rfl
      | none =>
        rw [inputWorkerStep_of_end hstate hask hnext, inputWorkerStep_of_end (s := withCpu s c) hstate hask hnext,
          apply_ite (withCpu · c)]
        rfl

theorem outputWorkerStep_withCpu (tick : Nat) (s : State) (c : CpuPart) :
    outputWorkerStep tick (withCpu s c) = withCpu (outputWorkerStep tick s) c := by
  cases hpending : s.console.outPending with
  | none => rw [outputWorkerStep_of_none hpending, outputWorkerStep_of_none (s := withCpu s c) hpending]
  | some v =>
    obtain ⟨fails, o, hask⟩ : ∃ fails o, askOracle s.conFail (Config.conFail tick) = (fails, o) := ⟨_, _, rfl⟩
    cases fails with
    | true =>
      rw [outputWorkerStep_of_fails hpending hask, outputWorkerStep_of_fails (s := withCpu s c) hpending hask]
      rfl
    | false =>
      rw [outputWorkerStep_of_pending hpending hask, outputWorkerStep_of_pending (s := withCpu s c) hpending hask]
      rfl

theorem diskWorkerStep_of_disabled {tick : Nat} {s : State} (h : diskWorkerEnabled s.disk = false) :
    diskWorkerStep tick s = s := by
  unfold diskWorkerStep
  split
  next => rfl
  next c hpending =>
    have hstopped : s.disk.workerState = .stopped := by simpa [diskWorkerEnabled, hpending] using h
    exact if_pos hstopped

theorem diskWorkerStep_withCpu (tick : Nat) (s : State) (c : CpuPart) :
    diskWorkerStep tick (withCpu s c) = withCpu (diskWorkerStep tick s) c := by
  cases henabled : diskWorkerEnabled s.disk with
  | false => rw [diskWorkerStep_of_disabled henabled, diskWorkerStep_of_disabled (s := withCpu s c) henabled]
  | true =>
    obtain ⟨⟨command, hpending⟩, hrunning⟩ : (∃ command, s.disk.pending = some command) ∧
        s.disk.workerState ≠ .stopped := by
      simpa [diskWorkerEnabled, Option.isSome_iff_exists] using henabled
    rw [diskWorkerStep_of_pending hpending hrunning rfl,
      diskWorkerStep_of_pending (s := withCpu s c) hpending hrunning rfl]
    rfl

/-- A worker's step does the same to the rest of the state with any CPU part. -/
theorem step_withCpu {s t : State} {who : Agent} (hwho : who ≠ .cpu) (hmoves : Moves who s) (h : step s = .next t)
    (c : CpuPart) : step (withCpu s c) = .next (withCpu t c) := by
  rw [step_of_moves hmoves] at h
  rw [step_of_moves (s := withCpu s c) hmoves]
  cases who with
  | cpu => exact absurd rfl hwho
  | consoleInput => cases h; exact congrArg Host.Outcome.next (inputWorkerStep_withCpu s.tick (takeMove s) c)
  | consoleOutput => cases h; exact congrArg Host.Outcome.next (outputWorkerStep_withCpu s.tick (takeMove s) c)
  | disk => cases h; exact congrArg Host.Outcome.next (diskWorkerStep_withCpu s.tick (takeMove s) c)

/-- A worker's step leaves the CPU part as it was: it does the same with that part put in again. -/
theorem step_cpuPart {s t : State} {who : Agent} (hwho : who ≠ .cpu) (hmoves : Moves who s) (h : step s = .next t) :
    cpuPart t = cpuPart s := by
  have hsame : t = withCpu t (cpuPart s) :=
    Host.Outcome.next.inj (h.symm.trans (step_withCpu hwho hmoves h (cpuPart s)))
  exact (congrArg cpuPart hsame :)

/-- Settles O56: a worker's step commutes with a change of the CPU part. -/
theorem workersLeaveTheCpuAlone : Obligations.WorkersLeaveTheCpuAlone := by
  intro s t who hwho hmoves h
  have hkept := step_cpuPart hwho hmoves h
  exact ⟨congrArg CpuPart.main hkept, congrArg CpuPart.alt hkept, congrArg CpuPart.ix hkept, congrArg CpuPart.iy hkept,
    congrArg CpuPart.sp hkept, congrArg CpuPart.pc hkept, congrArg CpuPart.mem hkept,
    fun main alt ix iy sp pc mem => step_withCpu hwho hmoves h ⟨main, alt, ix, iy, sp, pc, mem⟩⟩

/-! ### The invariant: memory -/

/-- A call of `run` writes the driver's record at most. -/
theorem hostStep_run_frame (s : State) (budget : Nat) :
    ∃ driver, hostStep s (.run budget) = { s with driver := driver } := by
  cases hended : s.driver.ended with
  | true => exact ⟨_, hostStep_run_of_ended budget hended⟩
  | false => exact ⟨s.driver, by simp [hostStep, hended]⟩

theorem exec_memory_wf {i : Instr} {s t : State} (hwf : Memory.wf s.mem = true) (h : exec i s = .next t) :
    Memory.wf t.mem = true := by
  rcases exec_mem h with hmem | ⟨-, v, hmem⟩ | ⟨-, -, hmem⟩ <;> rw [hmem]
  · exact hwf
  · exact memory_wf_memWrite hwf _ v
  · exact memory_wf_diskCopyToAddr s.disk hwf

theorem hostStep_memory_wf {s : State} (hwf : Memory.wf s.mem = true) (a : HostAction) :
    Memory.wf (hostStep s a).mem = true := by
  cases a with
  | install bytes address => exact memory_wf_memInstall hwf address bytes
  | run budget =>
    obtain ⟨driver, hrun⟩ := hostStep_run_frame s budget
    rw [hrun]
    exact hwf
  | reset | diskHalt | consoleHalt => exact hwf

theorem step_memory_wf {s t : State} (hwf : Memory.wf s.mem = true) (h : step s = .next t) :
    Memory.wf t.mem = true := by
  have worker : ∀ who, who ≠ .cpu → nextMove s = .agent who → Memory.wf t.mem = true := fun who hwho hmove => by
    have hmem : t.mem = s.mem := congrArg CpuPart.mem (step_cpuPart hwho ⟨(step_cases h).1, hmove⟩ h)
    rwa [hmem]
  obtain ⟨-, ⟨-, hcpu⟩ | ⟨hmove, -⟩ | ⟨hmove, -⟩ | ⟨hmove, -⟩ | ⟨a, -, rfl⟩⟩ := step_cases h
  · rcases cpuStep_cases hcpu with ⟨-, rfl⟩ | ⟨-, -, rfl⟩ | ⟨-, -, ⟨i, -, hexec⟩ | ⟨e, -, rfl⟩⟩
    · exact hwf
    · exact hwf
    · exact exec_memory_wf (s := (takeMove s).countInstr) hwf hexec
    · exact hwf
  · exact worker .consoleInput nofun hmove
  · exact worker .consoleOutput nofun hmove
  · exact worker .disk nofun hmove
  · exact hostStep_memory_wf (s := takeMove s) hwf a

/-! ### The invariant: the console (44_console.md R301) -/

theorem step_consoleInv {s t : State} (hinv : ConsoleInv s.console) (h : step s = .next t) :
    ConsoleInv t.console := by
  rcases step_console h with hc | hc | ⟨v, hc⟩ | ⟨b, -, hc⟩ | hc | ⟨v, -, hc⟩ <;> rw [hc]
  · exact hinv
  · exact hinv
  · unfold consoleOutChar
    split
    · exact fun _ => rfl
    · exact hinv
  · exact hinv
  · exact hinv
  · exact fun hpending => absurd rfl hpending

/-! ### The invariant: the disk (45_disk.md R332, R333, R348, R357) -/

/-- The part of the invariant that speaks of the disk. -/
def DiskOk (d : Disk) : Prop := ImageInv d ∧ DiskInv d

section
variable {d : Disk} (hok : DiskOk d)
include hok

/-- A command is done only once it is no longer pending. -/
theorem pending_eq_none_of_done {r : DiskResult} (hdone : d.done = some r) : d.pending = none := by
  obtain ⟨-, -, hnotBoth, -, -⟩ := hok
  by_contra hpending
  exact hnotBoth ⟨hpending, by rw [hdone]; nofun⟩

theorem diskOk_diskStatusPoll : DiskOk (diskStatusPoll d).2 := by
  by_cases hidle : d.status = .busy → d.done = none
  case pos => rw [diskStatusPoll_of_no_completion hidle]; exact hok
  case neg =>
    obtain ⟨hbusy, hdone⟩ := Classical.not_imp.mp hidle
    obtain ⟨r, hr⟩ := Option.ne_none_iff_exists'.mp hdone
    have hpending := pending_eq_none_of_done hok hr
    obtain ⟨himage, -, -, -, hstopping⟩ := hok
    rw [diskStatusPoll_of_completion hbusy hr]
    refine ⟨himage, fun hflight => ?_, fun hboth => hboth.2 rfl, by cases r <;> nofun, hstopping⟩
    rcases hflight with hp | hd
    · exact absurd hpending hp
    · exact absurd rfl hd

theorem diskOk_diskUnlessBusy {after : Disk} (hafter : DiskOk after) : DiskOk (diskUnlessBusy d after) := by
  unfold diskUnlessBusy
  split
  · exact hok
  · exact hafter

theorem diskOk_diskCopyFromAddr (m : Store) : DiskOk (diskCopyFromAddr d m) := by
  rw [diskCopyFromAddr_eq_with_buffer]
  exact hok

/-- With nothing Busy, no command is pending and none is done. -/
theorem no_command_of_not_busy (hfree : d.status ≠ .busy) : d.pending = none ∧ d.done = none := by
  obtain ⟨-, hflight, -⟩ := hok
  exact ⟨by_contra fun hp => hfree (hflight (.inl hp)), by_contra fun hd => hfree (hflight (.inr hd))⟩

theorem diskOk_diskDispatch (c : DiskCommand) : DiskOk (diskDispatch d c) := by
  by_cases hbusy : d.status = .busy
  case pos => rw [diskDispatch_of_busy c hbusy]; exact hok
  case neg =>
    obtain ⟨hpending, hdone⟩ := no_command_of_not_busy hok hbusy
    obtain ⟨himage, -, -, -, hstopping⟩ := hok
    by_cases hin : InGeometry d d.head d.track d.sector
    · rw [diskDispatch_of_inGeometry c hbusy hin]
      exact ⟨himage, fun _ => rfl, fun hboth => hboth.2 hdone, nofun, fun _ => nofun⟩
    · rw [diskDispatch_of_not_inGeometry c hbusy hin]
      refine ⟨himage, fun hflight => ?_, fun hboth => hboth.2 hdone, nofun, hstopping⟩
      rcases hflight with hp | hd
      · exact absurd hpending hp
      · exact absurd hdone hd

theorem diskOk_diskHalt : DiskOk (diskHalt d) := by
  obtain ⟨himage, hflight, hnotBoth, hopError, hstopping⟩ := hok
  unfold diskHalt
  split
  next => exact ⟨himage, hflight, hnotBoth, hopError, nofun⟩
  next hpending _ => exact ⟨himage, hflight, hnotBoth, hopError, fun _ => by rw [hpending]; nofun⟩
  next => exact ⟨himage, hflight, hnotBoth, hopError, hstopping⟩

theorem diskOk_diskReport_diskPerform (fails : Bool) (tick : Nat) {c : DiskCommand} (hpending : d.pending = some c) :
    DiskOk (diskReport (diskPerform d fails tick c)) := by
  obtain ⟨himage, hflight, -, -, -⟩ := hok
  have hbusy : d.status = .busy := hflight (.inl (by rw [hpending]; nofun))
  obtain ⟨result, buffer, image, lh, lt, hreport, hstore⟩ := diskReport_diskPerform d fails tick c
  have hwf : storeWf (imageSize d.heads d.tracks d.sectors) 0 image = true := by
    rcases hstore with rfl | ⟨off, bytes, rfl⟩
    · exact himage
    · exact storeWf_diskStoreSector off bytes himage
  have hworker : workerAfter d ≠ .stopping := by
    unfold workerAfter
    split
    · nofun
    · assumption
  rw [hreport]
  exact ⟨hwf, fun _ => hbusy, fun hboth => hboth.1 rfl, by rw [hbusy]; nofun, fun h => absurd h hworker⟩

end

theorem step_diskOk {s t : State} (hok : DiskOk s.disk) (h : step s = .next t) : DiskOk t.disk := by
  rcases step_disk h with hd | hd | ⟨_, _, _, _, hd⟩ | ⟨c, hd⟩ | hd | hd | ⟨c, fails, tick, hpending, -, hd⟩ <;>
    rw [hd]
  · exact hok
  · exact diskOk_diskStatusPoll hok
  · exact diskOk_diskUnlessBusy hok hok
  · exact diskOk_diskDispatch hok c
  · exact diskOk_diskCopyFromAddr hok s.mem
  · exact diskOk_diskHalt hok
  · exact diskOk_diskReport_diskPerform hok fails tick hpending

/-- Settles O59: every step keeps the memory's form, the console's invariant, and the disk's. -/
theorem stepKeepsInvariant : Obligations.StepKeepsInvariant := by
  rintro s t ⟨hmem, himage, hconsole, hdisk⟩ h
  obtain ⟨himage', hdisk'⟩ := step_diskOk ⟨himage, hdisk⟩ h
  exact ⟨step_memory_wf hmem h, himage', step_consoleInv hconsole h, hdisk'⟩

/-- The image at reset is at most the data region's bytes, stored from offset 0 on. -/
theorem imageInv_reset : ImageInv State.reset.disk :=
  storeWf_writeCells _ rfl (by rw [Nat.zero_add]; exact List.length_take_le ..)

/-- Settles O58: nothing is in flight at reset, and the image is built by writes inside its size. -/
theorem resetMeetsInvariant : Obligations.ResetMeetsInvariant :=
  ⟨memory_wf_reset, imageInv_reset, fun h => absurd rfl h,
    ⟨fun h => h.elim (absurd rfl) (absurd rfl), fun h => h.1 rfl, nofun, nofun⟩⟩

end Sys2Proof.Proofs
end

section
/-! PROOFS. A pending output byte on a fair run (44_console.md R313). -/

namespace Sys2Proof.Proofs

open Sys2Proof.Machine Sys2Proof.Laws Sys2Proof.Safety

/-- The byte `v` waits to be appended to the output `out`, and no console failure is to come. -/
def Waiting (v : Byte) (out : List Byte) (s : State) : Prop :=
  s.console.outPending = some v ∧ s.console.outReady = false ∧ s.console.output = out ∧ NeverFails s.conFail

theorem askOracle_of_neverFails {o : Oracle} (freeAnswer : Bool) (h : NeverFails o) :
    askOracle o freeAnswer = (false, o) := by
  obtain ⟨hanswers, hfree⟩ := h
  simp [askOracle, hanswers, hfree]

theorem exec_conFail {i : Instr} {s t : State} (h : exec i s = .next t) : t.conFail = s.conFail := by
  cases exec_effect h <;> rfl

/-- While the console is not ready, an output byte is dropped. -/
theorem consoleOutChar_of_not_ready {c : Console} (v : Byte) (h : c.outReady = false) : consoleOutChar c v = c := by
  simp [consoleOutChar, h]

section
variable {v : Byte} {out : List Byte} {s : State}

theorem exec_waiting {i : Instr} {t : State} (hw : Waiting v out s) (h : exec i s = .next t) : Waiting v out t := by
  obtain ⟨hpending, hready, houtput, hnever⟩ := hw
  rw [Waiting, exec_conFail h]
  rcases exec_console h with hc | hc | ⟨w, hc⟩ <;> rw [hc]
  · exact ⟨hpending, hready, houtput, hnever⟩
  · exact ⟨hpending, hready, houtput, hnever⟩
  · rw [consoleOutChar_of_not_ready w hready]; exact ⟨hpending, hready, houtput, hnever⟩

theorem cpuStep_waiting {t : State} (hw : Waiting v out s) (h : cpuStep s = .next t) : Waiting v out t := by
  rcases cpuStep_cases h with ⟨-, rfl⟩ | ⟨-, -, rfl⟩ | ⟨-, -, ⟨i, -, hexec⟩ | ⟨e, -, rfl⟩⟩
  · exact hw
  · exact hw
  · exact exec_waiting (s := s.countInstr) hw hexec
  · exact hw

theorem inputWorkerStep_waiting (tick : Nat) (hw : Waiting v out s) : Waiting v out (inputWorkerStep tick s) := by
  have ⟨_, _, _, hnever⟩ := hw
  have hask := askOracle_of_neverFails (Config.conFail tick) hnever
  cases hstate : s.console.inputState with
  | ended => rw [inputWorkerStep_of_ended hstate]; exact hw
  | live =>
    cases hnext : consoleNextInput s.console tick with
    | some b => rw [inputWorkerStep_of_byte hstate hask hnext]; exact hw
    | none =>
      rw [inputWorkerStep_of_end hstate hask hnext]
      split <;> exact hw

theorem diskWorkerStep_waiting (tick : Nat) (hw : Waiting v out s) : Waiting v out (diskWorkerStep tick s) := by
  rcases diskWorkerStep_cases tick s with h | ⟨_, _, _, _, _, h⟩ <;> rw [h] <;> exact hw

theorem hostStep_waiting (a : HostAction) (hw : Waiting v out s) : Waiting v out (hostStep s a) := by
  cases a with
  | run budget =>
    obtain ⟨driver, hrun⟩ := hostStep_run_frame s budget
    rw [hrun]
    exact hw
  | install | reset | diskHalt | consoleHalt => exact hw

/-- Only the output worker's step ends the wait. -/
theorem step_waiting {t : State} (hw : Waiting v out s) (hmove : nextMove s ≠ .agent .consoleOutput)
    (h : step s = .next t) : Waiting v out t := by
  obtain ⟨-, ⟨-, hcpu⟩ | ⟨-, rfl⟩ | ⟨houtput, -⟩ | ⟨-, rfl⟩ | ⟨a, -, rfl⟩⟩ := step_cases h
  · exact cpuStep_waiting (s := takeMove s) hw hcpu
  · exact inputWorkerStep_waiting s.tick hw
  · exact absurd houtput hmove
  · exact diskWorkerStep_waiting s.tick hw
  · exact hostStep_waiting a hw

/-- The output worker's step writes the byte. -/
theorem step_writes_waiting {t : State} (hw : Waiting v out s) (hmove : nextMove s = .agent .consoleOutput)
    (h : step s = .next t) :
    t.console.output = out ++ [v] ∧ t.console.outPending = none ∧ t.console.outReady = true := by
  obtain ⟨hpending, -, rfl, hanswers, hfree⟩ := hw
  obtain ⟨hfault, -⟩ := step_cases h
  obtain ⟨u, hstep, hconsole, -⟩ :=
    exists_step_of_pending ⟨hfault, hmove⟩ (.inr ⟨hanswers, hfree, rfl⟩) hpending
  cases h.symm.trans hstep
  rw [hconsole]
  exact ⟨rfl, rfl, rfl⟩

/-- On a fair run the byte waits until a move of the output worker, which comes: while it waits that worker is
enabled. -/
theorem exists_waiting_outputMove {σ : Nat → State} {n : Nat} (hrun : IsRun σ) (hfair : WeaklyFair .consoleOutput σ)
    (hw : Waiting v out (σ n)) :
    ∃ m, n ≤ m ∧ Waiting v out (σ m) ∧ nextMove (σ m) = .agent .consoleOutput := by
  by_contra! hnone
  have hwaits : ∀ m, n ≤ m → Waiting v out (σ m) := fun m hm => by
    induction m, hm using Nat.le_induction with
    | base => exact hw
    | succ m hm ih => exact step_waiting ih (hnone m hm ih) (hrun m)
  have henabled : ∀ m, n ≤ m → workerEnabled .consoleOutput (σ m) = true := fun m hm => by
    obtain ⟨hpending, -⟩ := hwaits m hm
    exact Option.isSome_iff_exists.mpr ⟨v, hpending⟩
  obtain ⟨m, hm, hmove⟩ := hfair n henabled
  exact hnone m hm (hwaits m hm) hmove

end

/-- Settles O60: the byte waits until the output worker moves, and that move writes it. -/
theorem pendingOutputIsWritten : Obligations.PendingOutputIsWritten := by
  intro σ n v hrun hfair hinv hnever hpending
  have hready : (σ n).console.outReady = false := hinv (by rw [hpending]; nofun)
  obtain ⟨m, hm, hwaiting, hmove⟩ := exists_waiting_outputMove hrun hfair ⟨hpending, hready, rfl, hnever⟩
  exact ⟨m, hm, step_writes_waiting hwaiting hmove (hrun m)⟩

end Sys2Proof.Proofs
end
